-- ==== Sys2Proof/Word.lean ====
section
/-! DEFINITION. Word types of the CHIP-8 interpreter core (spec/00_scope.md R6, R8; spec/30_encoding.md R95). Bit 0 is the
least significant bit of every value and every value is unsigned. -/

namespace Sys2Proof

/-- An 8-bit value: a general register, a timer, a memory byte, the immediate `kk` (R6, R95). -/
abbrev Byte := BitVec 8

/-- A 16-bit value: the index register, the program counter, a stack entry, an instruction word (R6, R7, R93). -/
abbrev Word := BitVec 16

/-- A register index `x` or `y`: four bits, so every index an instruction can name exists (R20, R95). -/
abbrev Reg := BitVec 4

/-- The 12-bit address field `nnn` (R95). -/
abbrev Addr12 := BitVec 12

end Sys2Proof
end

