-- ==== Sys2Proof/Machine/Flags.lean ====
section
/-! DEFINITION. Every value an instruction writes to VF (spec/10_state.md R38): carry, strict comparison, the bit shifted out,
collision. -/

namespace Sys2Proof.Machine

/-- A flag as the 8-bit value 0 or 1 that goes to VF. -/
def flag (c : Bool) : Byte := if c then 1 else 0

/-- Carry of 8xy4: the unsigned sum exceeds 255 (R144). -/
def carry (a b : Byte) : Byte := flag (decide (255 < a.toNat + b.toNat))

/-- The flag of 8xy5 and 8xy7: the minuend is strictly greater, so 0 at equality (R145, R147, C2). -/
def greater (a b : Byte) : Byte := flag (decide (b.toNat < a.toNat))

/-- The bit 8xy6 shifts out: bit 0 (R146). -/
def lowBit (a : Byte) : Byte := a &&& 1

/-- The bit 8xyE shifts out: bit 7 (R148). -/
def highBit (a : Byte) : Byte := a >>> 7

end Sys2Proof.Machine
end

