-- ==== Sys2Proof/Syntax.lean ====
section
/-! DEFINITION. The instructions: one constructor per row of spec/opcode_table.json, in the order of the opcode map
(spec/30_encoding.md R98). Every field has its encoded width in its type (R95). The INVALID words (R104) are no instruction:
the decoder rejects them by name. -/

namespace Sys2Proof

/-- The 34 instructions of R98. -/
inductive Instr where
  /-- 00E0 `CLS` (R120). -/
  | cls
  /-- 00EE `RET` (R121). -/
  | ret
  /-- 1nnn `JP nnn` (R122). -/
  | jp (nnn : Addr12)
  /-- 2nnn `CALL nnn` (R123). -/
  | call (nnn : Addr12)
  /-- 3xkk `SE Vx, kk` (R130). -/
  | seImm (x : Reg) (kk : Byte)
  /-- 4xkk `SNE Vx, kk` (R131). -/
  | sneImm (x : Reg) (kk : Byte)
  /-- 5xy0 `SE Vx, Vy` (R132). -/
  | seReg (x y : Reg)
  /-- 6xkk `LD Vx, kk` (R133). -/
  | ldImm (x : Reg) (kk : Byte)
  /-- 7xkk `ADD Vx, kk` (R134). -/
  | addImm (x : Reg) (kk : Byte)
  /-- 8xy0 `LD Vx, Vy` (R140). -/
  | ldReg (x y : Reg)
  /-- 8xy1 `OR Vx, Vy` (R141). -/
  | orReg (x y : Reg)
  /-- 8xy2 `AND Vx, Vy` (R142). -/
  | andReg (x y : Reg)
  /-- 8xy3 `XOR Vx, Vy` (R143). -/
  | xorReg (x y : Reg)
  /-- 8xy4 `ADD Vx, Vy` (R144). -/
  | addReg (x y : Reg)
  /-- 8xy5 `SUB Vx, Vy` (R145). -/
  | sub (x y : Reg)
  /-- 8xy6 `SHR Vx` (R146); `y` is decoded and ignored (R99). -/
  | shr (x y : Reg)
  /-- 8xy7 `SUBN Vx, Vy` (R147). -/
  | subn (x y : Reg)
  /-- 8xyE `SHL Vx` (R148); `y` is decoded and ignored (R99). -/
  | shl (x y : Reg)
  /-- 9xy0 `SNE Vx, Vy` (R150). -/
  | sneReg (x y : Reg)
  /-- Annn `LD I, nnn` (R151). -/
  | ldI (nnn : Addr12)
  /-- Bnnn `JP V0, nnn` (R152). -/
  | jpV0 (nnn : Addr12)
  /-- Cxkk `RND Vx, kk` (R153). -/
  | rnd (x : Reg) (kk : Byte)
  /-- Dxyn `DRW Vx, Vy, n` (R160). -/
  | drw (x y : Reg) (n : BitVec 4)
  /-- Ex9E `SKP Vx` (R170). -/
  | skp (x : Reg)
  /-- ExA1 `SKNP Vx` (R171). -/
  | sknp (x : Reg)
  /-- Fx07 `LD Vx, DT` (R180). -/
  | ldVxDt (x : Reg)
  /-- Fx0A `LD Vx, K` (R181). -/
  | ldVxK (x : Reg)
  /-- Fx15 `LD DT, Vx` (R182). -/
  | ldDtVx (x : Reg)
  /-- Fx18 `LD ST, Vx` (R183). -/
  | ldStVx (x : Reg)
  /-- Fx1E `ADD I, Vx` (R184). -/
  | addI (x : Reg)
  /-- Fx29 `LD F, Vx` (R185). -/
  | ldF (x : Reg)
  /-- Fx33 `LD B, Vx` (R186). -/
  | ldB (x : Reg)
  /-- Fx55 `LD [I], Vx` (R187). -/
  | storeRegs (x : Reg)
  /-- Fx65 `LD Vx, [I]` (R188). -/
  | loadRegs (x : Reg)
  deriving DecidableEq, Repr

end Sys2Proof
end

