-- ==== Sys2Proof/WellFormed.lean ====
section
/-! DEFINITION. Which words are instructions: the opcode map of spec/30_encoding.md R98 as data, 34 rows of mask and match,
and the test of R97. A word that satisfies no row is INVALID (R104), and `wordWf` refuses it. Every field of `Instr` has its
encoded width in its type, so no ill-formed term of `Instr` can be written: the check on a term has nothing left to refuse,
and the check that can fail is the one on words. -/

namespace Sys2Proof

/-- One row of the opcode map (R98): a word is that instruction when `(w & mask) = match`. -/
structure OpRow where
  mask : Word
  bits : Word
  deriving DecidableEq, Repr

/-- The test of R97. -/
def OpRow.matches (r : OpRow) (w : Word) : Bool := w &&& r.mask == r.bits

/-- Rows 1 to 4 of R98: 00E0 to 2nnn (spec/40). -/
def controlRows : List OpRow :=
  [⟨0xFFFF#16, 0x00E0#16⟩, ⟨0xFFFF#16, 0x00EE#16⟩, ⟨0xF000#16, 0x1000#16⟩, ⟨0xF000#16, 0x2000#16⟩]

/-- Rows 5 to 9 of R98: 3xkk to 7xkk (spec/41). -/
def immediateRows : List OpRow :=
  [⟨0xF000#16, 0x3000#16⟩, ⟨0xF000#16, 0x4000#16⟩, ⟨0xF00F#16, 0x5000#16⟩, ⟨0xF000#16, 0x6000#16⟩, ⟨0xF000#16, 0x7000#16⟩]

/-- Rows 10 to 18 of R98: 8xy0 to 8xyE (spec/42). -/
def aluRows : List OpRow :=
  [⟨0xF00F#16, 0x8000#16⟩, ⟨0xF00F#16, 0x8001#16⟩, ⟨0xF00F#16, 0x8002#16⟩, ⟨0xF00F#16, 0x8003#16⟩, ⟨0xF00F#16, 0x8004#16⟩,
   ⟨0xF00F#16, 0x8005#16⟩, ⟨0xF00F#16, 0x8006#16⟩, ⟨0xF00F#16, 0x8007#16⟩, ⟨0xF00F#16, 0x800E#16⟩]

/-- Rows 19 to 22 of R98: 9xy0 to Cxkk (spec/43). -/
def indexRows : List OpRow :=
  [⟨0xF00F#16, 0x9000#16⟩, ⟨0xF000#16, 0xA000#16⟩, ⟨0xF000#16, 0xB000#16⟩, ⟨0xF000#16, 0xC000#16⟩]

/-- Row 23 of R98: Dxyn (spec/44). -/
def drawRows : List OpRow :=
  [⟨0xF000#16, 0xD000#16⟩]

/-- Rows 24 and 25 of R98: Ex9E, ExA1 (spec/45). -/
def keypadRows : List OpRow :=
  [⟨0xF0FF#16, 0xE09E#16⟩, ⟨0xF0FF#16, 0xE0A1#16⟩]

/-- Rows 26 to 34 of R98: Fx07 to Fx65 (spec/46). -/
def familyFRows : List OpRow :=
  [⟨0xF0FF#16, 0xF007#16⟩, ⟨0xF0FF#16, 0xF00A#16⟩, ⟨0xF0FF#16, 0xF015#16⟩, ⟨0xF0FF#16, 0xF018#16⟩, ⟨0xF0FF#16, 0xF01E#16⟩,
   ⟨0xF0FF#16, 0xF029#16⟩, ⟨0xF0FF#16, 0xF033#16⟩, ⟨0xF0FF#16, 0xF055#16⟩, ⟨0xF0FF#16, 0xF065#16⟩]

/-- The complete opcode map (R98), in the document's order. -/
def opcodeMap : List OpRow :=
  controlRows ++ immediateRows ++ aluRows ++ indexRows ++ drawRows ++ keypadRows ++ familyFRows

/-- The word is one of the 34 instructions: some row of R98 matches it (R97, R106). -/
def wordWf (w : Word) : Bool := opcodeMap.any fun r => r.matches w

/-- No row of R98 admits a word that another row admits ("the rows are pairwise disjoint", R97): two rows differ in a bit that
both masks test. -/
def rowsDisjoint (r q : OpRow) : Bool := r.bits &&& q.mask != q.bits &&& r.mask

end Sys2Proof
end

