-- ==== Sys2Proof/Decode.lean ====
section
/-! DEFINITION. Decoding (spec/30_encoding.md R93 to R99, R104, R105) and, after it, the encoder written from the same formats
(R94). Decoding is total on every list of bytes and rejects by name. Every fixed nibble of a pattern is tested (R97, D16). -/

namespace Sys2Proof

/-- Why bytes are no instruction. -/
inductive DecodeError where
  /-- The word matches no row of R98: the INVALID arm (R104). The machine reports it and goes on; nothing stops. -/
  | invalidOpcode (w : Word)
  /-- Fewer than two bytes were given. The machine's fetch always takes two (R91), so no step meets it. -/
  | truncated
  deriving DecidableEq, Repr

/-- `fam = w[15:12]` (R95). -/
def famOf (w : Word) : BitVec 4 := w.extractLsb' 12 4

/-- `x = w[11:8]` (R95). -/
def xOf (w : Word) : Reg := w.extractLsb' 8 4

/-- `y = w[7:4]` (R95). -/
def yOf (w : Word) : Reg := w.extractLsb' 4 4

/-- `n = w[3:0]` (R95). -/
def nOf (w : Word) : BitVec 4 := w.extractLsb' 0 4

/-- `kk = w[7:0]` (R95). -/
def kkOf (w : Word) : Byte := w.extractLsb' 0 8

/-- `nnn = w[11:0]` (R95). -/
def nnnOf (w : Word) : Addr12 := w.extractLsb' 0 12

/-- Family 0x8 is told apart by the low nibble (R97, R98 rows 10 to 18). -/
def decodeFamily8 (w : Word) : Option Instr :=
  match nOf w with
  | 0x0#4 => some (.ldReg (xOf w) (yOf w))
  | 0x1#4 => some (.orReg (xOf w) (yOf w))
  | 0x2#4 => some (.andReg (xOf w) (yOf w))
  | 0x3#4 => some (.xorReg (xOf w) (yOf w))
  | 0x4#4 => some (.addReg (xOf w) (yOf w))
  | 0x5#4 => some (.sub (xOf w) (yOf w))
  | 0x6#4 => some (.shr (xOf w) (yOf w))
  | 0x7#4 => some (.subn (xOf w) (yOf w))
  | 0xE#4 => some (.shl (xOf w) (yOf w))
  | _ => none

/-- Family 0xE is told apart by the low byte (R97, R98 rows 24 and 25). -/
def decodeFamilyE (w : Word) : Option Instr :=
  match kkOf w with
  | 0x9E#8 => some (.skp (xOf w))
  | 0xA1#8 => some (.sknp (xOf w))
  | _ => none

/-- Family 0xF is told apart by the low byte (R97, R98 rows 26 to 34). -/
def decodeFamilyF (w : Word) : Option Instr :=
  match kkOf w with
  | 0x07#8 => some (.ldVxDt (xOf w))
  | 0x0A#8 => some (.ldVxK (xOf w))
  | 0x15#8 => some (.ldDtVx (xOf w))
  | 0x18#8 => some (.ldStVx (xOf w))
  | 0x1E#8 => some (.addI (xOf w))
  | 0x29#8 => some (.ldF (xOf w))
  | 0x33#8 => some (.ldB (xOf w))
  | 0x55#8 => some (.storeRegs (xOf w))
  | 0x65#8 => some (.loadRegs (xOf w))
  | _ => none

/-- The instruction of a 16-bit word, by its family nibble and, where R97 says so, its low nibble, low byte or whole word; none
for an INVALID word (R104). -/
def decodeWord (w : Word) : Option Instr :=
  match famOf w with
  | 0x0#4 =>
    if w = 0x00E0#16 then some .cls
    else if w = 0x00EE#16 then some .ret
    else none
  | 0x1#4 => some (.jp (nnnOf w))
  | 0x2#4 => some (.call (nnnOf w))
  | 0x3#4 => some (.seImm (xOf w) (kkOf w))
  | 0x4#4 => some (.sneImm (xOf w) (kkOf w))
  | 0x5#4 => if nOf w = 0x0#4 then some (.seReg (xOf w) (yOf w)) else none
  | 0x6#4 => some (.ldImm (xOf w) (kkOf w))
  | 0x7#4 => some (.addImm (xOf w) (kkOf w))
  | 0x8#4 => decodeFamily8 w
  | 0x9#4 => if nOf w = 0x0#4 then some (.sneReg (xOf w) (yOf w)) else none
  | 0xA#4 => some (.ldI (nnnOf w))
  | 0xB#4 => some (.jpV0 (nnnOf w))
  | 0xC#4 => some (.rnd (xOf w) (kkOf w))
  | 0xD#4 => some (.drw (xOf w) (yOf w) (nOf w))
  | 0xE#4 => decodeFamilyE w
  | _ => decodeFamilyF w

/-- The word of two bytes, the byte at the lower address most significant (spec/20_memory.md R63). -/
def wordOfBytes (hi lo : Byte) : Word := hi ++ lo

/-- The two bytes of a word, the most significant first (R63). -/
def bytesOfWord (w : Word) : List Byte := [w.extractLsb' 8 8, w.extractLsb' 0 8]

/-- One instruction from a list of bytes, with the bytes left over; every instruction is two bytes (R93). -/
def decode : List Byte → Except DecodeError (Instr × List Byte)
  | hi :: lo :: rest =>
    match decodeWord (wordOfBytes hi lo) with
    | some i => .ok (i, rest)
    | none => .error (.invalidOpcode (wordOfBytes hi lo))
  | _ => .error .truncated

/-! ### The encoder: the formats of R94 -/

/-- Format `NNN` (R94). -/
def formatNNN (fam : BitVec 4) (nnn : Addr12) : Word := fam ++ nnn

/-- Format `XKK` (R94). -/
def formatXKK (fam : BitVec 4) (x : Reg) (kk : Byte) : Word := fam ++ x ++ kk

/-- Formats `XY` and `XYN` (R94). -/
def formatXYN (fam : BitVec 4) (x y : Reg) (n : BitVec 4) : Word := fam ++ x ++ y ++ n

/-- The word of an instruction (R94, R98). -/
def encode : Instr → Word
  | .cls => 0x00E0#16
  | .ret => 0x00EE#16
  | .jp nnn => formatNNN 0x1#4 nnn
  | .call nnn => formatNNN 0x2#4 nnn
  | .seImm x kk => formatXKK 0x3#4 x kk
  | .sneImm x kk => formatXKK 0x4#4 x kk
  | .seReg x y => formatXYN 0x5#4 x y 0x0#4
  | .ldImm x kk => formatXKK 0x6#4 x kk
  | .addImm x kk => formatXKK 0x7#4 x kk
  | .ldReg x y => formatXYN 0x8#4 x y 0x0#4
  | .orReg x y => formatXYN 0x8#4 x y 0x1#4
  | .andReg x y => formatXYN 0x8#4 x y 0x2#4
  | .xorReg x y => formatXYN 0x8#4 x y 0x3#4
  | .addReg x y => formatXYN 0x8#4 x y 0x4#4
  | .sub x y => formatXYN 0x8#4 x y 0x5#4
  | .shr x y => formatXYN 0x8#4 x y 0x6#4
  | .subn x y => formatXYN 0x8#4 x y 0x7#4
  | .shl x y => formatXYN 0x8#4 x y 0xE#4
  | .sneReg x y => formatXYN 0x9#4 x y 0x0#4
  | .ldI nnn => formatNNN 0xA#4 nnn
  | .jpV0 nnn => formatNNN 0xB#4 nnn
  | .rnd x kk => formatXKK 0xC#4 x kk
  | .drw x y n => formatXYN 0xD#4 x y n
  | .skp x => formatXKK 0xE#4 x 0x9E#8
  | .sknp x => formatXKK 0xE#4 x 0xA1#8
  | .ldVxDt x => formatXKK 0xF#4 x 0x07#8
  | .ldVxK x => formatXKK 0xF#4 x 0x0A#8
  | .ldDtVx x => formatXKK 0xF#4 x 0x15#8
  | .ldStVx x => formatXKK 0xF#4 x 0x18#8
  | .addI x => formatXKK 0xF#4 x 0x1E#8
  | .ldF x => formatXKK 0xF#4 x 0x29#8
  | .ldB x => formatXKK 0xF#4 x 0x33#8
  | .storeRegs x => formatXKK 0xF#4 x 0x55#8
  | .loadRegs x => formatXKK 0xF#4 x 0x65#8

/-- The bytes of an instruction as they stand in memory, the most significant first (R63, R94). -/
def encodeBytes (i : Instr) : List Byte := bytesOfWord (encode i)

/-- The word whose low `nbits` bits are those of `w` and whose other bits are 0, bit 0 least significant. -/
def tableWord (nbits w : Nat) : Word := BitVec.ofNat 16 (w % 2 ^ nbits)

/-- What the decoder reads from an instruction of the opcode table whose bits are `w`: its one 16-bit word laid out as memory
holds it, most significant byte first (R63, R93), and given to `decode`. -/
def decodeTableWord (nbits w : Nat) : Option Instr :=
  match decode (bytesOfWord (tableWord nbits w)) with
  | .ok (i, _) => some i
  | .error _ => none

end Sys2Proof
end

