-- ==== Sys2Proof/Config.lean ====
section
/-! DEFINITION. What is fixed for the machine (spec/00_scope.md R6) and the free values (spec/60_exceptions.md R216, R217,
R219; spec/93_implementation_defined.md U7, U8, U9). A free value is an opaque constant with no body: nothing can be proved of
what it is, so a claim that holds, holds whatever it is. Each is applied to `State.draws`, the count of the answers the
outside agents have given so far, so that every answer is fresh and no rule relates two of them. -/

namespace Sys2Proof.Config

/-- `MEM_SIZE` (R6): bytes of addressable memory, addresses 0x000 to 0xFFF. -/
abbrev memSize : Nat := 4096

/-- `PROG_BASE` (R6): the load address and the reset value of PC. -/
abbrev progBase : Nat := 0x200

/-- `PROG_MAX` (R6): the most bytes Load copies. -/
abbrev progMax : Nat := 3584

/-- The last address from which two bytes can be fetched (R91). -/
abbrev lastFetch : Nat := 0x0FFE

/-- The random byte of the draw numbered by the argument (R219, U7). FREE VALUE, log 2. -/
opaque randomByte : Nat → Byte

/-- The Input Oracle's answer to `KeyPressed(k)` at the numbered draw (R216, U8). FREE VALUE, log 3. -/
opaque keyPressed : Nat → BitVec 4 → Bool

/-- The Input Oracle's answer to `KeyWait()` at the numbered draw, a logical key 0 to 15 (R217, U9). FREE VALUE, log 4. -/
opaque keyWait : Nat → BitVec 4

end Sys2Proof.Config
end

