-- ==== Sys2Proof/Machine/State.lean ====
section
/-! DEFINITION. The machine's state as plain data (spec/10_state.md R20 to R47), the reasons a step can stop, and the state
after Reset (R47). Memory after Reset lists nothing: what an unlisted address reads as is `Memory.resetByte` of
Machine/Ops.lean, the reset contents of R47. -/

namespace Sys2Proof.Machine

/-- The values of the `report` output (spec/60_exceptions.md R202). -/
inductive Report where
  /-- Code 0: every cycle starts so (R201). -/
  | none
  /-- Code 1: the word matches no row of the opcode map; the word and the address it was fetched from (R104, R203). -/
  | invalidOpcode (w pc : Word)
  /-- Code 2: CALL with 16 return addresses stacked; the address of the CALL (R123, R204). -/
  | stackOverflow (pc : Word)
  /-- Code 3: RET with the stack empty; the address of the RET (R121, R205). -/
  | stackUnderflow (pc : Word)
  /-- Code 4: SKP or SKNP with a value that is no logical key; the value and the address of the instruction (R172). -/
  | keyRange (v : Byte) (pc : Word)
  /-- Code 5, fatal: the lowest out-of-range byte address (R66, R206). -/
  | addressFault (a : Nat)
  /-- Code 6: the Step began with `halted` set (R209). -/
  | halted
  deriving DecidableEq, Repr

/-- Memory as data: the bytes that differ from the reset contents, by rising address (log 15). -/
abbrev Memory := List Host.Cell

/-- The framebuffer: 32 rows of 64 one-bit pixels, `fb[r][c]` (R30, D19). -/
abbrev Frame := Vector (Vector Bool 64) 32

/-- Why a step stops with a fault. -/
inductive Fault where
  /-- Raised by `LD Vx, K` alone, when the Input Oracle gives no answer: the Step never returns and there is no next state
  (R181, R217, R218; U9 "stuck while it has not"). SAFE: the model stops where the hardware makes no further progress (log 5). -/
  | keyWaitUnanswered
  deriving DecidableEq, Repr

/-- Why a step refuses. -/
inductive Refusal where
  /-- Raised by an arm of `exec` whose instruction has no meaning yet; no arm raises it now. SAFE: nothing is claimed of such an
  instruction. -/
  | notModelled (mnemonic : String)
  deriving DecidableEq, Repr

/-- Everything the spec gives the machine, and three fields of the model's own at the end. -/
structure State where
  /-- V0 to VF (R20). -/
  v : Vector Byte 16
  /-- The index register I (R23). -/
  i : Word
  /-- The program counter (R24). -/
  pc : Word
  /-- The number of return addresses on the call stack, 0 to 16 (R26, log 12). -/
  sp : Fin 17
  /-- The call stack; the entries at `sp` and above are stale and kept (R27). -/
  stack : Vector Word 16
  /-- The delay timer (R28). -/
  dt : Byte
  /-- The sound timer (R29). -/
  st : Byte
  /-- The 4096-byte memory (R32). -/
  mem : Memory
  /-- The framebuffer (R30). -/
  fb : Frame
  /-- `display_changed` (R31). -/
  displayChanged : Bool
  /-- `clear_requested` (R31). -/
  clearRequested : Bool
  /-- The report output (R201). -/
  report : Report
  /-- The fatal-fault latch (R45). -/
  halted : Bool
  /-- MODEL'S OWN (log 6): the sticky mark of R201 and U1, set by every report but `none` and never cleared. -/
  faultMark : Bool
  /-- MODEL'S OWN (log 2): how many answers the Input Oracle and the random source have given; it numbers the free values. -/
  draws : Nat
  /-- MODEL'S OWN (log 5): whether the Input Oracle answers a key wait; only the oracle changes it, never the core. -/
  oracleAnswers : Bool
  deriving DecidableEq, Repr

/-- The machine right after Reset (R47, R240), with the default `GLYPH` (R33, log 1). -/
def State.reset : State where
  v := Vector.replicate 16 0
  i := 0
  pc := 0x0200
  sp := 0
  stack := Vector.replicate 16 0
  dt := 0
  st := 0
  mem := []
  fb := Vector.replicate 32 (Vector.replicate 64 false)
  displayChanged := false
  clearRequested := false
  report := .none
  halted := false
  faultMark := false
  draws := 0
  oracleAnswers := true

/-- How a meaning or a step ends. -/
abbrev Result := Host.Outcome State Fault Refusal

end Sys2Proof.Machine
end

