-- ==== Sys2Proof/Machine/Ops.lean ====
section
/-! DEFINITION. The named operations over memory, registers, the stack, the outputs and the cycle. Memory: spec/20_memory.md
R60 to R68. The cycle: spec/30_encoding.md R90 to R92, R104. Reports and the fatal fault: spec/60_exceptions.md R200 to R214. -/

namespace Sys2Proof.Machine

/-! ### Memory -/

/-- The default `GLYPH` for the digits 0 to 7 (spec/10_state.md R33), five bytes a digit. PRESUMED, log 1. -/
def glyphLow : List Byte :=
  [0xF0, 0x90, 0x90, 0x90, 0xF0, 0x20, 0x60, 0x20, 0x20, 0x70, 0xF0, 0x10, 0xF0, 0x80, 0xF0, 0xF0, 0x10, 0xF0, 0x10, 0xF0,
   0x90, 0x90, 0xF0, 0x10, 0x10, 0xF0, 0x80, 0xF0, 0x10, 0xF0, 0xF0, 0x80, 0xF0, 0x90, 0xF0, 0xF0, 0x10, 0x20, 0x40, 0x40]

/-- The default `GLYPH` for the digits 8 to F (R33). PRESUMED, log 1. -/
def glyphHigh : List Byte :=
  [0xF0, 0x90, 0xF0, 0x90, 0xF0, 0xF0, 0x90, 0xF0, 0x10, 0xF0, 0xF0, 0x90, 0xF0, 0x90, 0x90, 0xE0, 0x90, 0xE0, 0x90, 0xE0,
   0xF0, 0x80, 0x80, 0x80, 0xF0, 0xE0, 0x90, 0x90, 0x90, 0xE0, 0xF0, 0x80, 0xF0, 0x80, 0xF0, 0xF0, 0x80, 0xF0, 0x80, 0x80]

/-- The default `GLYPH`, 80 bytes (R33). -/
def glyph : List Byte := glyphLow ++ glyphHigh

/-- What an address reads as that the memory list does not name: the reset contents, `GLYPH` at 0x000 to 0x04F and 0 at every
other address (R47). -/
def Memory.resetByte (a : Nat) : Byte := glyph.getD a 0

/-- The byte at an address. Every meaning checks its range first (R66), so addresses above 0x0FFF are never asked (log 15). -/
def Memory.read : Memory → Nat → Byte
  | [], a => Memory.resetByte a
  | (k, b) :: m, a => if k = a then b else Memory.read m a

/-- The cell put in its place by rising address. -/
def Memory.insert (a : Nat) (b : Byte) : Memory → Memory
  | [] => [(a, b)]
  | (k, c) :: m => if a < k then (a, b) :: (k, c) :: m else (k, c) :: Memory.insert a b m

/-- The memory without a cell for the address, so that it reads as the reset contents. -/
def Memory.erase (m : Memory) (a : Nat) : Memory := m.filter fun c => c.1 != a

/-- Store one byte, keeping the canonical form: the reset value removes the cell. -/
def Memory.write (m : Memory) (a : Nat) (b : Byte) : Memory :=
  if b = Memory.resetByte a then m.erase a else Memory.insert a b (m.erase a)

/-- Store bytes at ascending addresses (R65). -/
def Memory.writeList (m : Memory) (a : Nat) : List Byte → Memory
  | [] => m
  | b :: bs => Memory.writeList (m.write a b) (a + 1) bs

/-- The `len` bytes from an address, ascending (R65). -/
def Memory.readList (m : Memory) (a len : Nat) : List Byte := (List.range len).map fun k => m.read (a + k)

/-- Addresses rise strictly from at least `lo`. -/
def Memory.risingFrom : Nat → Memory → Bool
  | _, [] => true
  | lo, (k, _) :: m => decide (lo ≤ k) && Memory.risingFrom (k + 1) m

/-- The canonical form: addresses strictly rising, each below 4096, and no cell equal to what an unlisted address reads as. -/
def Memory.wf (m : Memory) : Bool :=
  Memory.risingFrom 0 m && m.all fun c => decide (c.1 < Config.memSize) && c.2 != Memory.resetByte c.1

/-! ### Updates of one piece of state -/

/-- Read general register `x` (R20). -/
def State.readV (s : State) (x : Reg) : Byte := s.v[x.toNat]'(x.isLt)

/-- Write general register `x`; none is hardwired (R20). -/
def State.writeV (s : State) (x : Reg) (b : Byte) : State := { s with v := s.v.set x.toNat b x.isLt }

/-- Replace the whole register file. -/
def State.setRegs (s : State) (v : Vector Byte 16) : State := { s with v := v }

/-- Write I (R23). -/
def State.setI (s : State) (a : Word) : State := { s with i := a }

/-- Write PC; only step 5 of the cycle does (R24, R92). -/
def State.setPc (s : State) (a : Word) : State := { s with pc := a }

/-- Write DT (R28). -/
def State.setDt (s : State) (b : Byte) : State := { s with dt := b }

/-- Write ST (R29). -/
def State.setSt (s : State) (b : Byte) : State := { s with st := b }

/-- Replace the memory. -/
def State.setMem (s : State) (m : Memory) : State := { s with mem := m }

/-- Replace the framebuffer and raise `display_changed`, as a draw does (R31, R160). -/
def State.drawn (s : State) (f : Frame) : State := { s with fb := f, displayChanged := true }

/-- Every pixel 0 and `clear_requested` raised, as a clear does (R31, R120). -/
def State.cleared (s : State) : State :=
  { s with fb := Vector.replicate 32 (Vector.replicate 64 false), clearRequested := true }

/-- Replace the call stack and its count. -/
def State.setStack (s : State) (stack : Vector Word 16) (sp : Fin 17) : State := { s with stack := stack, sp := sp }

/-- One answer of an outside agent has been taken (log 2). -/
def State.drew (s : State) : State := { s with draws := s.draws + 1 }

/-- Set the cycle's report, and the model's sticky mark with it (R201, U1, log 6). -/
def State.reportAs (s : State) (r : Report) : State := { s with report := r, faultMark := true }

/-- The pixel at row `r`, column `c` (R30). -/
def State.pixel (s : State) (r : Fin 32) (c : Fin 64) : Bool := s.fb[r][c]

/-- The numeric code of a report (R202). -/
def Report.code : Report → Nat
  | .none => 0
  | .invalidOpcode _ _ => 1
  | .stackOverflow _ => 2
  | .stackUnderflow _ => 3
  | .keyRange _ _ => 4
  | .addressFault _ => 5
  | .halted => 6

/-! ### Disposition of PC (R92) -/

/-- What step 5 of the cycle does to PC. -/
inductive Disposition where
  | advanceOne
  | advanceTwo
  | jump (t : Word)
  deriving DecidableEq, Repr

/-- PC after a disposition: +2, +4 or the target (R92). -/
def pcAfter (pc : Word) : Disposition → Word
  | .advanceOne => pc + 2
  | .advanceTwo => pc + 4
  | .jump t => t

/-- Step 5 of the cycle (R90, R92). -/
def State.dispose (s : State) (d : Disposition) : State := s.setPc (pcAfter s.pc d)

/-- Advance-two when the condition of a skip holds, else advance-one (R92, R124). -/
def skipIf (c : Bool) : Disposition := if c then .advanceTwo else .advanceOne

/-! ### Errors (R200 to R206) -/

/-- A non-fatal report: the instruction is a no-op, PC advances by 2 and the cycle goes on (R200). -/
def reportedNoOp (r : Report) (s : State) : State := (s.reportAs r).dispose .advanceOne

/-- The state after `raise AddressFault(a)`: `halted` and the report, nothing else (R206). -/
def State.addressFault (s : State) (a : Nat) : State := { s.reportAs (.addressFault a) with halted := true }

/-- Taking the one fatal exception (R206). No state is saved, nothing returns from it (R211): Reset alone clears `halted`. -/
def raiseAddressFault (a : Nat) (s : State) : Result := .next (s.addressFault a)

/-- The whole range `I .. I+len-1` lies in memory; an empty range checks nothing (R66, R67, R160). -/
def State.rangeOk (s : State) (len : Nat) : Bool := decide (len = 0 ∨ s.i.toNat + len ≤ Config.memSize)

/-- The bounds check of R66 before an access at `I .. I+len-1`: the fault at the lowest out-of-range address with nothing written,
or the state the instruction leaves. -/
def withRange (s : State) (len : Nat) (after : State) : Result :=
  if s.rangeOk len then .next after else raiseAddressFault (max s.i.toNat 0x1000) s

/-! ### The call stack (R26, R27) -/

/-- Push a return address and go to `target`; with 16 entries stacked, the report and no-op of R204. -/
def pushAndJump (ret target : Word) (s : State) : State :=
  if h : s.sp.val < 16 then
    (s.setStack (s.stack.set s.sp.val ret h) ⟨s.sp.val + 1, Nat.succ_lt_succ h⟩).dispose (.jump target)
  else reportedNoOp (.stackOverflow s.pc) s

/-- Pop a return address and go to it; with no entry stacked, the report and no-op of R205. The popped entry stays (R27). -/
def popAndJump (s : State) : State :=
  if h : s.sp.val = 0 then reportedNoOp (.stackUnderflow s.pc) s
  else
    (s.setStack s.stack ⟨s.sp.val - 1, Nat.lt_of_le_of_lt (Nat.sub_le ..) s.sp.isLt⟩).dispose
      (.jump (s.stack[s.sp.val - 1]'(by have := s.sp.isLt; omega)))

/-! ### The cycle (R90) -/

/-- Step 1: both signals cleared and the report set to `none` (R31, R90, R201). -/
def State.beginCycle (s : State) : State :=
  { s with displayChanged := false, clearRequested := false, report := .none }

/-- Step 6: each timer loses 1 if it is not 0 (R214). -/
def State.tick (s : State) : State :=
  { s with dt := if s.dt = 0 then 0 else s.dt - 1, st := if s.st = 0 then 0 else s.st - 1 }

/-- Steps 5 and 6 are skipped by a cycle that ended in AddressFault (R90, R206); the core was not halted when it began, so the
latch says whether it did. -/
def State.endCycle (s : State) : State := if s.halted then s else s.tick

/-- The end of a cycle that has run step 4. -/
def finishCycle : Result → Result
  | .next t => .next t.endCycle
  | .fault f => .fault f
  | .refused r => .refused r

/-- The big-endian word at an address (R63). -/
def Memory.readWord (m : Memory) (a : Nat) : Word := wordOfBytes (m.read a) (m.read (a + 1))

/-- Step 2, the fetch: the word of the two bytes at PC, at any parity; none when they do not both exist (R64, R91). -/
def fetch (s : State) : Option Word :=
  if s.pc.toNat ≤ Config.lastFetch then some (s.mem.readWord s.pc.toNat) else none

/-- The lowest address of a failed fetch that is outside memory (R66, R91). -/
def fetchFaultAddr (s : State) : Nat := max s.pc.toNat 0x1000

/-- The INVALID arm: reported, treated as a no-op (R104, R203). -/
def invalidOpcode (w : Word) (s : State) : State := reportedNoOp (.invalidOpcode w s.pc) s

/-- Step 1a: the core is halted; the report is all that happens (R209). -/
def haltedCycle (s : State) : State := s.reportAs .halted

end Sys2Proof.Machine
end

