-- ==== Sys2Proof/Machine/Operands.lean ====
section
/-! DEFINITION. Operand forms: registers and immediates (spec/30_encoding.md R96), the addressing mode "I plus an offset"
(spec/46_family_f_timers_index_memory.md R190), the BCD digits (R186), and the blocks of registers of Fx55 and Fx65 (R187,
R188). -/

namespace Sys2Proof.Machine

/-- The register VF in its role as flag (spec/10_state.md R21). -/
abbrev vf : Reg := 15#4

/-- An 8-bit value zero-extended to 16 bits (`zext_16`, R9, R96). -/
def zext16 (b : Byte) : Word := b.setWidth 16

/-- A 12-bit address zero-extended to 16 bits (R96). -/
def zextAddr (nnn : Addr12) : Word := nnn.setWidth 16

/-- A 4-bit key zero-extended to 8 bits (`zext_8`, R181). -/
def zext8 (k : BitVec 4) : Byte := k.setWidth 8

/-- The bytes in memory from address I (R190): the sprite of Dxyn, the block of Fx65. -/
def State.bytesAtI (s : State) (len : Nat) : List Byte := s.mem.readList s.i.toNat len

/-- Memory with bytes stored from address I, ascending (R190). -/
def State.storeAtI (s : State) (bs : List Byte) : State := s.setMem (s.mem.writeList s.i.toNat bs)

/-- Hundreds, tens and ones of a byte, each a digit value 0 to 9 (R186). -/
def bcdDigits (b : Byte) : List Byte :=
  [BitVec.ofNat 8 (b.toNat / 100), BitVec.ofNat 8 (b.toNat / 10 % 10), BitVec.ofNat 8 (b.toNat % 10)]

/-- How many registers the count field `x` of Fx55 and Fx65 names: V0 to Vx inclusive (R187). -/
def blockLen (x : Reg) : Nat := x.toNat + 1

/-- The values of V0 to Vx inclusive, the lowest register first (R187). -/
def State.block (s : State) (x : Reg) : List Byte := s.v.toList.take (blockLen x)

/-- The registers with V0 to Vx loaded from memory at I, and those above Vx as they were (R188). -/
def State.loadedBlock (s : State) (x : Reg) : Vector Byte 16 :=
  Vector.ofFn fun k => if k.val < blockLen x then s.mem.read (s.i.toNat + k.val) else s.v[k]

end Sys2Proof.Machine
end

