-- ==== Sys2Proof/Machine/Alu.lean ====
section
/-! DEFINITION. Family 0x8, the ALU (spec/42_family_8_alu.md R140 to R148). The effects run in the order the rule lists them,
each reading the registers as the one before left them (spec/92_eei_decisions.md D7, log 8). -/

namespace Sys2Proof.Machine

/-- 8xy0 `LD Vx, Vy` (R140). -/
def execLdReg (x y : Reg) (s : State) : Result := .next ((s.writeV x (s.readV y)).dispose .advanceOne)

/-- 8xy1 `OR Vx, Vy`; VF is no flag here (R141). -/
def execOrReg (x y : Reg) (s : State) : Result := .next ((s.writeV x (s.readV x ||| s.readV y)).dispose .advanceOne)

/-- 8xy2 `AND Vx, Vy` (R142). -/
def execAndReg (x y : Reg) (s : State) : Result := .next ((s.writeV x (s.readV x &&& s.readV y)).dispose .advanceOne)

/-- 8xy3 `XOR Vx, Vy` (R143). -/
def execXorReg (x y : Reg) (s : State) : Result := .next ((s.writeV x (s.readV x ^^^ s.readV y)).dispose .advanceOne)

/-- 8xy4 `ADD Vx, Vy`: the sum is formed once from the old values; Vx, then VF (R144). -/
def execAddReg (x y : Reg) (s : State) : Result :=
  .next (((s.writeV x (s.readV x + s.readV y)).writeV vf (carry (s.readV x) (s.readV y))).dispose .advanceOne)

/-- The second effect of 8xy5: Vx becomes Vx - Vy, both read now (R145). -/
def subInPlace (x y : Reg) (s : State) : State := s.writeV x (s.readV x - s.readV y)

/-- 8xy5 `SUB Vx, Vy`: VF, then the difference (R145). -/
def execSub (x y : Reg) (s : State) : Result :=
  .next ((subInPlace x y (s.writeV vf (greater (s.readV x) (s.readV y)))).dispose .advanceOne)

/-- The second effect of 8xy6: Vx shifted right by one, read now (R146). -/
def shrInPlace (x : Reg) (s : State) : State := s.writeV x (s.readV x >>> 1)

/-- 8xy6 `SHR Vx`: VF, then the shift; `y` is ignored (R99, R146). -/
def execShr (x _y : Reg) (s : State) : Result :=
  .next ((shrInPlace x (s.writeV vf (lowBit (s.readV x)))).dispose .advanceOne)

/-- The second effect of 8xy7: Vx becomes Vy - Vx, both read now (R147). -/
def subnInPlace (x y : Reg) (s : State) : State := s.writeV x (s.readV y - s.readV x)

/-- 8xy7 `SUBN Vx, Vy`: VF, then the difference (R147). -/
def execSubn (x y : Reg) (s : State) : Result :=
  .next ((subnInPlace x y (s.writeV vf (greater (s.readV y) (s.readV x)))).dispose .advanceOne)

/-- The second effect of 8xyE: Vx shifted left by one, read now (R148). -/
def shlInPlace (x : Reg) (s : State) : State := s.writeV x (s.readV x <<< 1)

/-- 8xyE `SHL Vx`: VF, then the shift; `y` is ignored (R99, R148). -/
def execShl (x _y : Reg) (s : State) : Result :=
  .next ((shlInPlace x (s.writeV vf (highBit (s.readV x)))).dispose .advanceOne)

end Sys2Proof.Machine
end

