-- ==== Sys2Proof/Machine/Control.lean ====
section
/-! DEFINITION. Families 0x0 to 0x2: CLS, RET, JP, CALL (spec/40_family_0_to_2_cls_ret_jp_call.md R120 to R123). -/

namespace Sys2Proof.Machine

/-- 00E0 `CLS` (R120). -/
def execCls (s : State) : Result := .next (s.cleared.dispose .advanceOne)

/-- 00EE `RET` (R121, R205). -/
def execRet (s : State) : Result := .next (popAndJump s)

/-- 1nnn `JP nnn` (R122). -/
def execJp (nnn : Addr12) (s : State) : Result := .next (s.dispose (.jump (zextAddr nnn)))

/-- 2nnn `CALL nnn` (R123, R204): the pushed value is PC + 2. -/
def execCall (nnn : Addr12) (s : State) : Result := .next (pushAndJump (s.pc + 2) (zextAddr nnn) s)

end Sys2Proof.Machine
end

