-- ==== Sys2Proof/Machine/Draw.lean ====
section
/-! DEFINITION. Family 0xD: DRW, the sprite XOR-blit with collision detection (spec/44_family_d_draw.md R160 to R162). -/

namespace Sys2Proof.Machine

/-- One sprite bit: bit `7 - col` of the row byte onto the pixel at row `ty`, column `ox + col`. The pixel is XORed, and a bit
of 1 onto a pixel of 1 is a collision. A bit past the right edge is not drawn (R160). -/
def blitBit (ty ox : Nat) (b : Byte) (acc : Frame × Bool) (col : Nat) : Frame × Bool :=
  if h : ty < 32 ∧ ox + col < 64 then
    let bit := b.getLsbD (7 - col)
    let row := acc.1[ty]'h.1
    let old := row[ox + col]'h.2
    (acc.1.set ty (row.set (ox + col) (old ^^ bit) h.2) h.1, acc.2 || (bit && old))
  else acc

/-- One sprite row, most significant bit first (R160). -/
def blitRow (ty ox : Nat) (b : Byte) (acc : Frame × Bool) : Frame × Bool :=
  (List.range 8).foldl (blitBit ty ox b) acc

/-- The sprite rows from row `ty` down, stopping at the bottom edge (R160, R162). -/
def blitRows (ox : Nat) : Nat → List Byte → Frame × Bool → Frame × Bool
  | _, [], acc => acc
  | ty, b :: bs, acc => if ty < 32 then blitRows ox (ty + 1) bs (blitRow ty ox b acc) else acc

/-- The framebuffer and the collision after drawing `n` rows from I with the origin taken from Vx and Vy as they stand (R160). -/
def State.blit (s : State) (x y : Reg) (n : Nat) : Frame × Bool :=
  blitRows ((s.readV x).toNat % 64) ((s.readV y).toNat % 32) (s.bytesAtI n) (s.fb, false)

/-- Dxyn `DRW Vx, Vy, n`: all `n` addresses checked first; the origin from the old Vx and Vy; VF is the collision flag and
`display_changed` is raised (R160, D8, log 9). -/
def execDrw (x y : Reg) (n : BitVec 4) (s : State) : Result :=
  withRange s n.toNat
    (((s.drawn (s.blit x y n.toNat).1).writeV vf (flag (s.blit x y n.toNat).2)).dispose .advanceOne)

end Sys2Proof.Machine
end

