-- ==== Sys2Proof/Machine/FamilyF.lean ====
section
/-! DEFINITION. Family 0xF: timers, key wait, index arithmetic, BCD, block transfer
(spec/46_family_f_timers_index_memory.md R180 to R188). The timer tick of step 6 is the cycle's (R90), not the meanings'. -/

namespace Sys2Proof.Machine

/-- Fx07 `LD Vx, DT` (R180). -/
def execLdVxDt (x : Reg) (s : State) : Result := .next ((s.writeV x s.dt).dispose .advanceOne)

/-- Fx0A `LD Vx, K` (R181): the oracle's answer, a free value of 0 to 15 (log 4); with no answer the Step never returns and
there is no next state (R217, R218, U9, log 5). -/
def execLdVxK (x : Reg) (s : State) : Result :=
  if s.oracleAnswers then .next ((s.drew.writeV x (zext8 (Config.keyWait s.draws))).dispose .advanceOne)
  else .fault .keyWaitUnanswered

/-- Fx15 `LD DT, Vx` (R182). -/
def execLdDtVx (x : Reg) (s : State) : Result := .next ((s.setDt (s.readV x)).dispose .advanceOne)

/-- Fx18 `LD ST, Vx` (R183). -/
def execLdStVx (x : Reg) (s : State) : Result := .next ((s.setSt (s.readV x)).dispose .advanceOne)

/-- Fx1E `ADD I, Vx`: modulo 65536, VF untouched (R184, D9). -/
def execAddI (x : Reg) (s : State) : Result := .next ((s.setI (s.i + zext16 (s.readV x))).dispose .advanceOne)

/-- Fx29 `LD F, Vx`: all 8 bits of Vx times 5 (R185, D9). -/
def execLdF (x : Reg) (s : State) : Result := .next ((s.setI (zext16 (s.readV x) * 5)).dispose .advanceOne)

/-- Fx33 `LD B, Vx`: hundreds, tens and ones at I, I+1, I+2 (R186). -/
def execLdB (x : Reg) (s : State) : Result :=
  withRange s 3 ((s.storeAtI (bcdDigits (s.readV x))).dispose .advanceOne)

/-- Fx55 `LD [I], Vx`: V0 to Vx stored from I, I unchanged (R187). -/
def execStoreRegs (x : Reg) (s : State) : Result :=
  withRange s (blockLen x) ((s.storeAtI (s.block x)).dispose .advanceOne)

/-- Fx65 `LD Vx, [I]`: V0 to Vx loaded from I, I unchanged (R188). -/
def execLoadRegs (x : Reg) (s : State) : Result :=
  withRange s (blockLen x) ((s.setRegs (s.loadedBlock x)).dispose .advanceOne)

end Sys2Proof.Machine
end

