-- ==== Sys2Proof/Machine/Immediate.lean ====
section
/-! DEFINITION. Families 0x3 to 0x7: skips, load and add with an immediate or a register
(spec/41_family_3_to_7_skip_load_add.md R130 to R134). -/

namespace Sys2Proof.Machine

/-- 3xkk `SE Vx, kk` (R130). -/
def execSeImm (x : Reg) (kk : Byte) (s : State) : Result := .next (s.dispose (skipIf (s.readV x == kk)))

/-- 4xkk `SNE Vx, kk` (R131). -/
def execSneImm (x : Reg) (kk : Byte) (s : State) : Result := .next (s.dispose (skipIf (s.readV x != kk)))

/-- 5xy0 `SE Vx, Vy` (R132). -/
def execSeReg (x y : Reg) (s : State) : Result := .next (s.dispose (skipIf (s.readV x == s.readV y)))

/-- 6xkk `LD Vx, kk` (R133). -/
def execLdImm (x : Reg) (kk : Byte) (s : State) : Result := .next ((s.writeV x kk).dispose .advanceOne)

/-- 7xkk `ADD Vx, kk`: modulo 256, no flag (R134). -/
def execAddImm (x : Reg) (kk : Byte) (s : State) : Result :=
  .next ((s.writeV x (s.readV x + kk)).dispose .advanceOne)

end Sys2Proof.Machine
end

