-- ==== Sys2Proof/Machine/Index.lean ====
section
/-! DEFINITION. Families 0x9 to 0xC: SNE, LD I, JP V0, RND (spec/43_family_9_to_c_sne_ldi_jpv0_rnd.md R150 to R153). -/

namespace Sys2Proof.Machine

/-- 9xy0 `SNE Vx, Vy` (R150). -/
def execSneReg (x y : Reg) (s : State) : Result := .next (s.dispose (skipIf (s.readV x != s.readV y)))

/-- Annn `LD I, nnn` (R151). -/
def execLdI (nnn : Addr12) (s : State) : Result := .next ((s.setI (zextAddr nnn)).dispose .advanceOne)

/-- Bnnn `JP V0, nnn`: the 16-bit sum, not reduced modulo 4096 (R152). -/
def execJpV0 (nnn : Addr12) (s : State) : Result :=
  .next (s.dispose (.jump (zextAddr nnn + zext16 (s.readV 0))))

/-- Cxkk `RND Vx, kk`: one free byte per execution, masked (R153, R219, log 2). -/
def execRnd (x : Reg) (kk : Byte) (s : State) : Result :=
  .next ((s.drew.writeV x (kk &&& Config.randomByte s.draws)).dispose .advanceOne)

end Sys2Proof.Machine
end

