-- ==== Sys2Proof/Machine/Keypad.lean ====
section
/-! DEFINITION. Family 0xE: SKP and SKNP (spec/45_family_e_keypad_skips.md R170 to R172). -/

namespace Sys2Proof.Machine

/-- The Input Oracle's answer for the key a register names (R216): one fresh bit per query (U8, log 3). -/
def keyAnswer (s : State) (x : Reg) : Bool := Config.keyPressed s.draws ((s.readV x).setWidth 4)

/-- Skip when the oracle's answer is `want`; a value that is no logical key is reported, with no query (R172). -/
def skipOnKey (want : Bool) (x : Reg) (s : State) : State :=
  if 0x0F < (s.readV x).toNat then reportedNoOp (.keyRange (s.readV x) s.pc) s
  else s.drew.dispose (skipIf (keyAnswer s x == want))

/-- Ex9E `SKP Vx` (R170). -/
def execSkp (x : Reg) (s : State) : Result := .next (skipOnKey true x s)

/-- ExA1 `SKNP Vx` (R171). -/
def execSknp (x : Reg) (s : State) : Result := .next (skipOnKey false x s)

end Sys2Proof.Machine
end

