-- ==== Sys2Proof/Machine/Step.lean ====
section
/-! DEFINITION. One Step: exactly one cycle, the seven steps of spec/30_encoding.md R90. -/

namespace Sys2Proof.Machine

/-- Steps 2 to 6 of a cycle that began with the core running: fetch, decode, execute, disposition, timers (R90 to R92, R104). -/
def runCycle (s : State) : Result :=
  match fetch s with
  | none => raiseAddressFault (fetchFaultAddr s) s
  | some w =>
    match decodeWord w with
    | some i => finishCycle (exec i s)
    | none => finishCycle (.next (invalidOpcode w s))

/-- The host operation Step (R90): step 1 clears the outputs, step 1a holds a halted core, and the rest is the cycle. The outputs of
step 7 are fields of the state it leaves (`State.output`). -/
def step (s : State) : Host.Outcome State Fault Refusal :=
  if s.beginCycle.halted then .next (haltedCycle s.beginCycle) else runCycle s.beginCycle

/-- Where `withFetchWord` places its instruction: PC if two bytes can be fetched there, else the entry point (R91, R241). -/
def fetchSite (s : State) : Word := if s.pc.toNat ≤ Config.lastFetch then s.pc else 0x0200

/-- The state with one instruction of the opcode table placed where the next step fetches: its two bytes stored at PC, the most
significant first (R63), PC moved to the entry point if nothing could be fetched there, and the core not halted. -/
def State.withFetchWord (s : State) (nbits w : Nat) : State :=
  { s with
    halted := false
    pc := fetchSite s
    mem := s.mem.writeList (fetchSite s).toNat (bytesOfWord (tableWord nbits w)) }

end Sys2Proof.Machine
end

