-- ==== Sys2Proof/Machine/HostOps.lean ====
section
/-! DEFINITION. The outside world (spec/60_exceptions.md R215 to R221, spec/20_memory.md R75 to R77, spec/70_reset_and_hazards.md
R240 to R242): the host's Reset and Load, the outputs of a Step, what the host sends the Frame Sink, and the Input Oracle's own
moves. They happen between Steps, never during one (D17, log 14). -/

namespace Sys2Proof.Machine

/-- Reset with a given `GLYPH` (R33, R240): every piece of the core's state to its value of R47. The three fields that are not
the core's stay: the fault mark, which is "never cleared" (R201, log 6), the count of the outside agents' answers and the
oracle's own state (R35, log 14). -/
def hostReset (font : Vector Byte 80) (s : State) : State :=
  { State.reset with
    mem := Memory.writeList [] 0 font.toList
    faultMark := s.faultMark
    draws := s.draws
    oracleAnswers := s.oracleAnswers }

/-- Load: at most 3584 bytes copied to 0x200 and up, the rest ignored; nothing else changes (R75, R76). -/
def hostLoad (bytes : List Byte) (s : State) : State :=
  s.setMem (s.mem.writeList Config.progBase (bytes.take Config.progMax))

/-- The boot sequence up to the first Step: Reset, then Load of the program image (R242). -/
def boot (bytes : List Byte) : State := hostLoad bytes State.reset

/-- The Input Oracle falls silent or speaks again: the only move that changes whether a key wait is answered (R217, log 5). -/
def oracleMove (answers : Bool) (s : State) : State := { s with oracleAnswers := answers }

/-- What a Step returns (R90 step 7, R220). -/
structure StepOutput where
  fb : Frame
  displayChanged : Bool
  clearRequested : Bool
  report : Report
  deriving DecidableEq, Repr

/-- The outputs as they stand after a Step (R220). -/
def State.output (s : State) : StepOutput := ⟨s.fb, s.displayChanged, s.clearRequested, s.report⟩

/-- A call the host makes on the Frame Sink (R221). -/
inductive SinkCall where
  /-- `render(framebuffer)`. -/
  | render (fb : Frame)
  /-- `clear()`. -/
  | clear
  deriving DecidableEq, Repr

/-- The Frame Sink calls after a Step: render when the display-changed signal is set, clear when the clear-requested signal is
set (R221). -/
def sinkCalls (o : StepOutput) : List SinkCall :=
  (if o.displayChanged then [.render o.fb] else []) ++ (if o.clearRequested then [.clear] else [])

end Sys2Proof.Machine
end

