-- ==== Sys2Proof/Safety.lean ====
section
/-! DEFINITION. What counts as a safe run, the machine's invariant, and the terms in which claims are stated: what part of the
state a statement says is unchanged, that an instruction runs to a next state, that a cycle fetches an instruction. -/

namespace Sys2Proof.Machine

/-! ### Safe states and the invariant -/

/-- No cycle of the run so far has carried a report, and the core is not halted (spec/93_implementation_defined.md U1: any other
run "is malformed or has left the defined architecture"). -/
def State.clean (s : State) : Bool := !s.faultMark && !s.halted

/-- The invariant every step keeps: memory in canonical form, PC at most 0x10FE and every stack entry at most 0x1000
(spec/10_state.md R25), at most one cycle signal (R31), and the model's mark set wherever a report or the latch is. -/
structure MachineInv (s : State) : Prop where
  mem_wf : s.mem.wf = true
  pc_le : s.pc.toNat ≤ 0x10FE
  stack_le : ∀ k : Fin 16, s.stack[k].toNat ≤ 0x1000
  one_signal : ¬(s.displayChanged = true ∧ s.clearRequested = true)
  report_marked : s.report ≠ .none → s.faultMark = true
  halted_marked : s.halted = true → s.faultMark = true

/-! ### What is unchanged -/

/-- The parts of the state, for frames. -/
inductive Part where
  | regs | index | pc | sp | stack | dt | st | mem | fb | display | clear | report | halted | mark | draws | oracle
  deriving DecidableEq, Repr

/-- The part has the same contents in both states; of memory, every byte read is the same. -/
def Part.Same (s t : State) : Part → Prop
  | .regs => ∀ r : Reg, t.readV r = s.readV r
  | .index => t.i = s.i
  | .pc => t.pc = s.pc
  | .sp => t.sp = s.sp
  | .stack => t.stack = s.stack
  | .dt => t.dt = s.dt
  | .st => t.st = s.st
  | .mem => ∀ a : Nat, t.mem.read a = s.mem.read a
  | .fb => ∀ (r : Fin 32) (c : Fin 64), t.pixel r c = s.pixel r c
  | .display => t.displayChanged = s.displayChanged
  | .clear => t.clearRequested = s.clearRequested
  | .report => t.report = s.report
  | .halted => t.halted = s.halted
  | .mark => t.faultMark = s.faultMark
  | .draws => t.draws = s.draws
  | .oracle => t.oracleAnswers = s.oracleAnswers

/-- Every part but the listed ones is the same in both states. -/
def UnchangedExcept (changed : List Part) (s t : State) : Prop := ∀ p : Part, p ∉ changed → p.Same s t

/-- Every register but those of the predicate is the same in both states. -/
def RegsUnchangedExcept (written : Reg → Prop) (s t : State) : Prop := ∀ r : Reg, ¬written r → t.readV r = s.readV r

/-! ### Running an instruction -/

/-- The instruction answers a next state, and that state is as `P` says. -/
def Runs (i : Instr) (s : State) (P : State → Prop) : Prop := ∃ t, exec i s = .next t ∧ P t

/-- The words with `(w & mask) = bits`, and no others, decode to the instruction with the fields `f` takes from the word (R97). -/
def DecodesAs (mask bits : Word) (f : Word → Instr) : Prop := ∀ w : Word, w &&& mask = bits ↔ decodeWord w = some (f w)

/-- The core is running and two bytes can be fetched at PC (R90, R91). -/
def Running (s : State) : Prop := s.halted = false ∧ s.pc.toNat ≤ 0x0FFE

/-- The cycle that begins in this state fetches the word (R91). -/
def FetchesWord (s : State) (w : Word) : Prop := Running s ∧ s.mem.readWord s.pc.toNat = w

/-- The cycle that begins in this state executes the instruction (R90 steps 2 to 4). -/
def Fetches (s : State) (i : Instr) : Prop := Running s ∧ decodeWord (s.mem.readWord s.pc.toNat) = some i

/-- The addresses `I .. I+len-1` all lie in memory; an empty range does (R66, R67). -/
def RangeInMemory (s : State) (len : Nat) : Prop := len = 0 ∨ s.i.toNat + len ≤ 0x1000

/-! ### Tables of the spec used by claims -/

/-- The sprite bit that a draw of `n` rows from I, with the origin of Vx and Vy, puts on a pixel: 0 outside the sprite's rows and
columns, else bit `7 - col` of the row's byte (R160; nothing wraps past an edge). -/
def State.spriteBit (s : State) (x y : Reg) (n : Nat) (r : Fin 32) (c : Fin 64) : Bool :=
  let oy := (s.readV y).toNat % 32
  let ox := (s.readV x).toNat % 64
  decide (oy ≤ r.val ∧ r.val < oy + n ∧ ox ≤ c.val ∧ c.val < ox + 8) &&
    (s.mem.read (s.i.toNat + (r.val - oy))).getLsbD (7 - (c.val - ox))

/-- Some sprite bit of 1 falls on a pixel that is 1 (R160, the collision). -/
def State.collides (s : State) (x y : Reg) (n : Nat) : Prop :=
  ∃ (r : Fin 32) (c : Fin 64), s.spriteBit x y n r c = true ∧ s.pixel r c = true

/-- The target of a jump, call or return, decoded from the instruction or taken from the top of the stack (R92). -/
def jumpTarget (s : State) : Instr → Option Word
  | .jp nnn => some (nnn.setWidth 16)
  | .call nnn => some (nnn.setWidth 16)
  | .jpV0 nnn => some (nnn.setWidth 16 + (s.readV 0).setWidth 16)
  | .ret => if h : s.sp.val = 0 then none else some (s.stack[s.sp.val - 1]'(by have := s.sp.isLt; omega))
  | _ => none

/-- The six instructions that may yield advance-two (R92). -/
def isSkip : Instr → Bool
  | .seImm _ _ | .sneImm _ _ | .seReg _ _ | .sneReg _ _ | .skp _ | .sknp _ => true
  | _ => false

/-- The value a cycle's decrement finds in DT: what Fx15 wrote, else what was there (R182, R214). -/
def timerBeforeTick (s : State) : Option Instr → Byte
  | some (.ldDtVx x) => s.readV x
  | _ => s.dt

/-- The value a cycle's decrement finds in ST: what Fx18 wrote, else what was there (R183, R214). -/
def soundBeforeTick (s : State) : Option Instr → Byte
  | some (.ldStVx x) => s.readV x
  | _ => s.st

/-- The registers an instruction may write (R22): the destination, VF for the six flag writers, V0 to Vx for Fx65. -/
def mayWriteReg (r : Reg) : Instr → Prop
  | .ldImm x _ | .addImm x _ | .ldReg x _ | .orReg x _ | .andReg x _ | .xorReg x _ | .rnd x _ | .ldVxDt x | .ldVxK x => r = x
  | .addReg x _ | .sub x _ | .shr x _ | .subn x _ | .shl x _ => r = x ∨ r = 15#4
  | .drw _ _ _ => r = 15#4
  | .loadRegs x => r.toNat ≤ x.toNat
  | _ => False

/-- The parts other than the registers that an instruction may write, its error case included (R22, R23, R26 to R31, R61, R67,
R202). -/
def mayWritePart : Instr → List Part
  | .cls => [.pc, .fb, .clear]
  | .ret => [.pc, .sp, .report, .mark]
  | .call _ => [.pc, .sp, .stack, .report, .mark]
  | .ldI _ | .addI _ | .ldF _ => [.pc, .index]
  | .rnd _ _ | .ldVxK _ => [.pc, .draws]
  | .skp _ | .sknp _ => [.pc, .draws, .report, .mark]
  | .drw _ _ _ => [.pc, .fb, .display, .report, .mark, .halted]
  | .ldDtVx _ => [.pc, .dt]
  | .ldStVx _ => [.pc, .st]
  | .ldB _ | .storeRegs _ => [.pc, .mem, .report, .mark, .halted]
  | .loadRegs _ => [.pc, .report, .mark, .halted]
  | _ => [.pc]

end Sys2Proof.Machine
end

