-- ==== Sys2Proof/Certificates/Slice0/Obligations.lean ====
section
/-! DEFINITION. The statements for the provers, one `def Obligations.<Name> : Prop` each, in the order of OBLIGATIONS.json. A
frame is written `UnchangedExcept [parts] s t`: every part of the state but the listed ones is the same, every byte of memory
among them. `Runs i s P` says that exec answers a next state and that it is as `P` says. -/

open Sys2Proof Sys2Proof.Machine

/-! ## Reset, Load -/

/-- What Reset leaves (R47): every piece of state. The signals, the report and `halted` at reset are the spec's decisions D5 and
D18; the bytes of `glyph` are the default of R33 (log 1); `faultMark`, `draws` and `oracleAnswers` are the model's own
(logs 2, 5, 6) and not stated. -/
def Obligations.ResetLeavesEveryPieceAtItsValue : Prop :=
  (∀ r : Reg, State.reset.readV r = 0#8) ∧ State.reset.i = 0x0000#16 ∧ State.reset.pc = 0x0200#16 ∧ State.reset.sp.val = 0 ∧
  (∀ k : Fin 16, State.reset.stack[k] = 0#16) ∧ State.reset.dt = 0#8 ∧ State.reset.st = 0#8 ∧
  glyph.length = 80 ∧ (∀ a, a < 80 → State.reset.mem.read a = glyph.getD a 0) ∧ (∀ a, 80 ≤ a → State.reset.mem.read a = 0#8) ∧
  (∀ (r : Fin 32) (c : Fin 64), State.reset.pixel r c = false) ∧ State.reset.displayChanged = false ∧
  State.reset.clearRequested = false ∧ State.reset.report = .none ∧ State.reset.halted = false ∧ Sys2Proof.core.reset = State.reset

/-- The host's Reset from any state, with any `GLYPH` (R240; that Reset may be applied again is the spec's decision D17, and
`GLYPH` is its open parameter D13). The model's own fields stay: the mark (log 6) and the outside agents' two (log 14). -/
def Obligations.HostResetRestoresEveryPiece : Prop :=
  ∀ (font : Vector Byte 80) (s : State),
    (∀ a : Fin 80, (hostReset font s).mem.read a.val = font[a]) ∧ (∀ a, 80 ≤ a → (hostReset font s).mem.read a = 0#8) ∧
    (hostReset font s).mem.wf = true ∧ UnchangedExcept [.mem, .mark, .draws, .oracle] State.reset (hostReset font s) ∧
    (hostReset font s).faultMark = s.faultMark ∧ (hostReset font s).draws = s.draws ∧ (hostReset font s).oracleAnswers = s.oracleAnswers

/-- Load (R75, R76): `min(len, 3584)` bytes to 0x200 and up; every other byte and every other part of the state as before. -/
def Obligations.LoadCopiesTheProgramOnly : Prop :=
  ∀ (bytes : List Byte) (s : State),
    (∀ k, k < min bytes.length 3584 → (hostLoad bytes s).mem.read (0x200 + k) = bytes.getD k 0) ∧
    (∀ a, (a < 0x200 ∨ 0x200 + min bytes.length 3584 ≤ a) → (hostLoad bytes s).mem.read a = s.mem.read a) ∧
    UnchangedExcept [.mem] s (hostLoad bytes s)

/-! ## Encoding -/

/-- Every instruction is read back from its word and from its bytes, whatever follows them. -/
def Obligations.DecodeOfEncodeIsTheInstruction : Prop :=
  ∀ (i : Instr) (rest : List Byte), decodeWord (encode i) = some i ∧ decode (encodeBytes i ++ rest) = .ok (i, rest)

/-- A word has one meaning: the instruction it decodes to encodes to that word and no other. -/
def Obligations.EncodeOfDecodeIsTheWord : Prop :=
  ∀ (w : Word) (i : Instr), decodeWord w = some i → encode i = w

/-- The decoder, which reads nibbles, accepts exactly the words that the masks of the opcode map accept, and the map's rows
exclude one another (R97, R98; that every fixed nibble is tested is the spec's decision D16). -/
def Obligations.DecoderAcceptsTheOpcodeMap : Prop :=
  (∀ w : Word, (decodeWord w).isSome = wordWf w) ∧ opcodeMap.length = 34 ∧
  opcodeMap.Pairwise fun r q => ∀ w : Word, ¬(r.matches w = true ∧ q.matches w = true)

/-- Words written out from the spec's patterns, one or more of each family, and the instructions they stand for. -/
def Obligations.SpecWordsDecode : Prop :=
  decodeWord 0x00E0#16 = some .cls ∧ decodeWord 0x2ABC#16 = some (.call 0xABC#12) ∧ decodeWord 0x332A#16 = some (.seImm 3#4 0x2A#8) ∧
  decodeWord 0x5120#16 = some (.seReg 1#4 2#4) ∧ decodeWord 0x812E#16 = some (.shl 1#4 2#4) ∧ decodeWord 0xA2F0#16 = some (.ldI 0x2F0#12) ∧
  decodeWord 0xD125#16 = some (.drw 1#4 2#4 5#4) ∧ decodeWord 0xE2A1#16 = some (.sknp 2#4) ∧ decodeWord 0xF165#16 = some (.loadRegs 1#4) ∧
  decodeWord 0x5121#16 = none ∧ decodeWord 0x0000#16 = none

/-! ## Families 0x0 to 0x2 -/

/-- CLS (R120): every pixel 0, `clear_requested` set, PC + 2, nothing else; step 1 of the next cycle clears the signal. -/
def Obligations.ClsClearsEveryPixel : Prop :=
  DecodesAs 0xFFFF#16 0x00E0#16 (fun _ => .cls) ∧
  ∀ s : State,
    Runs .cls s (fun t =>
      (∀ (r : Fin 32) (c : Fin 64), t.pixel r c = false) ∧ t.clearRequested = true ∧ t.pc = s.pc + 2#16 ∧
      UnchangedExcept [.fb, .clear, .pc] s t ∧ t.beginCycle.clearRequested = false)

/-- RET. With an entry stacked (R121): SP one less, PC the entry popped, the entry kept (R27). With none, the spec's decision
D4: the report, no jump, SP stays 0. -/
def Obligations.RetPopsOrReports : Prop :=
  DecodesAs 0xFFFF#16 0x00EE#16 (fun _ => .ret) ∧
  ∀ s : State,
    (∀ h : 0 < s.sp.val,
      Runs .ret s (fun t =>
        t.sp.val = s.sp.val - 1 ∧ t.pc = s.stack[s.sp.val - 1]'(by have := s.sp.isLt; omega) ∧ UnchangedExcept [.sp, .pc] s t)) ∧
    (s.sp.val = 0 →
      Runs .ret s (fun t =>
        t.report = .stackUnderflow s.pc ∧ t.faultMark = true ∧ t.pc = s.pc + 2#16 ∧ UnchangedExcept [.pc, .report, .mark] s t))

/-- JP (R122): PC is `nnn`, nothing else changes. -/
def Obligations.JpSetsPc : Prop :=
  DecodesAs 0xF000#16 0x1000#16 (fun w => .jp (w.extractLsb' 0 12)) ∧
  ∀ (nnn : Addr12) (s : State), Runs (.jp nnn) s (fun t => t.pc.toNat = nnn.toNat ∧ UnchangedExcept [.pc] s t)

/-- CALL. Below 16 entries (R123): PC + 2 pushed at SP, SP one more, PC is `nnn`, the other entries as they were. With 16, the
spec's decision D3: the report, nothing pushed, no jump. -/
def Obligations.CallPushesOrReports : Prop :=
  DecodesAs 0xF000#16 0x2000#16 (fun w => .call (w.extractLsb' 0 12)) ∧
  ∀ (nnn : Addr12) (s : State),
    (∀ h : s.sp.val < 16,
      Runs (.call nnn) s (fun t =>
        t.sp.val = s.sp.val + 1 ∧ t.stack[s.sp.val] = s.pc + 2#16 ∧
        (∀ k : Fin 16, k.val ≠ s.sp.val → t.stack[k] = s.stack[k]) ∧ t.pc.toNat = nnn.toNat ∧
        UnchangedExcept [.sp, .stack, .pc] s t)) ∧
    (s.sp.val = 16 →
      Runs (.call nnn) s (fun t =>
        t.report = .stackOverflow s.pc ∧ t.faultMark = true ∧ t.pc = s.pc + 2#16 ∧ UnchangedExcept [.pc, .report, .mark] s t))

/-- The round-trip law of R123: CALL and then RET leaves PC at the instruction after the CALL and SP as it was. -/
def Obligations.CallThenRetReturns : Prop :=
  ∀ (nnn : Addr12) (s : State), s.sp.val < 16 →
    Runs (.call nnn) s (fun t => Runs .ret t (fun u => u.pc = s.pc + 2#16 ∧ u.sp = s.sp ∧ UnchangedExcept [.pc, .stack] s u))

/-! ## Families 0x3 to 0x7 and 0x9 -/

/-- SE Vx, kk (R130). -/
def Obligations.SkipIfEqualImmediate : Prop :=
  DecodesAs 0xF000#16 0x3000#16 (fun w => .seImm (w.extractLsb' 8 4) (w.extractLsb' 0 8)) ∧
  ∀ (x : Reg) (kk : Byte) (s : State),
    Runs (.seImm x kk) s (fun t =>
      ((s.readV x).toNat = kk.toNat → t.pc = s.pc + 4#16) ∧ ((s.readV x).toNat ≠ kk.toNat → t.pc = s.pc + 2#16) ∧
      UnchangedExcept [.pc] s t)

/-- SNE Vx, kk (R131), and that for every state exactly one of SE and SNE with the same operands skips. -/
def Obligations.SkipIfUnequalImmediate : Prop :=
  DecodesAs 0xF000#16 0x4000#16 (fun w => .sneImm (w.extractLsb' 8 4) (w.extractLsb' 0 8)) ∧
  ∀ (x : Reg) (kk : Byte) (s : State),
    Runs (.sneImm x kk) s (fun t =>
      ((s.readV x).toNat ≠ kk.toNat → t.pc = s.pc + 4#16) ∧ ((s.readV x).toNat = kk.toNat → t.pc = s.pc + 2#16) ∧
      UnchangedExcept [.pc] s t ∧
      Runs (.seImm x kk) s (fun u => u.pc = s.pc + 4#16 ↔ ¬t.pc = s.pc + 4#16))

/-- SE Vx, Vy (R132, which also says that the low nibble must be 0 and that a word such as 0x5121 is INVALID). -/
def Obligations.SkipIfRegistersEqual : Prop :=
  DecodesAs 0xF00F#16 0x5000#16 (fun w => .seReg (w.extractLsb' 8 4) (w.extractLsb' 4 4)) ∧
  (∀ w : Word, w &&& 0xF000#16 = 0x5000#16 → w &&& 0x000F#16 ≠ 0#16 → decodeWord w = none) ∧
  ∀ (x y : Reg) (s : State),
    Runs (.seReg x y) s (fun t =>
      ((s.readV x).toNat = (s.readV y).toNat → t.pc = s.pc + 4#16) ∧
      ((s.readV x).toNat ≠ (s.readV y).toNat → t.pc = s.pc + 2#16) ∧ UnchangedExcept [.pc] s t)

/-- SNE Vx, Vy (R150), and that for every state exactly one of SE and SNE with the same registers skips. -/
def Obligations.SkipIfRegistersDiffer : Prop :=
  DecodesAs 0xF00F#16 0x9000#16 (fun w => .sneReg (w.extractLsb' 8 4) (w.extractLsb' 4 4)) ∧
  ∀ (x y : Reg) (s : State),
    Runs (.sneReg x y) s (fun t =>
      ((s.readV x).toNat ≠ (s.readV y).toNat → t.pc = s.pc + 4#16) ∧
      ((s.readV x).toNat = (s.readV y).toNat → t.pc = s.pc + 2#16) ∧ UnchangedExcept [.pc] s t ∧
      Runs (.seReg x y) s (fun u => u.pc = s.pc + 4#16 ↔ ¬t.pc = s.pc + 4#16))

/-- LD Vx, kk (R133). -/
def Obligations.LoadImmediate : Prop :=
  DecodesAs 0xF000#16 0x6000#16 (fun w => .ldImm (w.extractLsb' 8 4) (w.extractLsb' 0 8)) ∧
  ∀ (x : Reg) (kk : Byte) (s : State),
    Runs (.ldImm x kk) s (fun t =>
      t.readV x = kk ∧ t.pc = s.pc + 2#16 ∧ RegsUnchangedExcept (· = x) s t ∧ UnchangedExcept [.regs, .pc] s t)

/-- ADD Vx, kk (R134): modulo 256, VF written only as the destination. -/
def Obligations.AddImmediateWraps : Prop :=
  DecodesAs 0xF000#16 0x7000#16 (fun w => .addImm (w.extractLsb' 8 4) (w.extractLsb' 0 8)) ∧
  ∀ (x : Reg) (kk : Byte) (s : State),
    Runs (.addImm x kk) s (fun t =>
      (t.readV x).toNat = ((s.readV x).toNat + kk.toNat) % 256 ∧ t.pc = s.pc + 2#16 ∧
      RegsUnchangedExcept (· = x) s t ∧ UnchangedExcept [.regs, .pc] s t)

/-! ## Family 0x8 -/

/-- LD Vx, Vy (R140): Vy and every other register unchanged. -/
def Obligations.CopyRegister : Prop :=
  DecodesAs 0xF00F#16 0x8000#16 (fun w => .ldReg (w.extractLsb' 8 4) (w.extractLsb' 4 4)) ∧
  ∀ (x y : Reg) (s : State),
    Runs (.ldReg x y) s (fun t =>
      t.readV x = s.readV y ∧ t.pc = s.pc + 2#16 ∧ RegsUnchangedExcept (· = x) s t ∧ UnchangedExcept [.regs, .pc] s t)

/-- OR, AND, XOR (R141, R142, R143): bit by bit, VF written only as the destination. -/
def Obligations.LogicOperations : Prop :=
  DecodesAs 0xF00F#16 0x8001#16 (fun w => .orReg (w.extractLsb' 8 4) (w.extractLsb' 4 4)) ∧
  DecodesAs 0xF00F#16 0x8002#16 (fun w => .andReg (w.extractLsb' 8 4) (w.extractLsb' 4 4)) ∧
  DecodesAs 0xF00F#16 0x8003#16 (fun w => .xorReg (w.extractLsb' 8 4) (w.extractLsb' 4 4)) ∧
  ∀ (x y : Reg) (s : State),
    Runs (.orReg x y) s (fun t =>
      (∀ k, (t.readV x).getLsbD k = ((s.readV x).getLsbD k || (s.readV y).getLsbD k)) ∧ t.pc = s.pc + 2#16 ∧
      RegsUnchangedExcept (· = x) s t ∧ UnchangedExcept [.regs, .pc] s t) ∧
    Runs (.andReg x y) s (fun t =>
      (∀ k, (t.readV x).getLsbD k = ((s.readV x).getLsbD k && (s.readV y).getLsbD k)) ∧ t.pc = s.pc + 2#16 ∧
      RegsUnchangedExcept (· = x) s t ∧ UnchangedExcept [.regs, .pc] s t) ∧
    Runs (.xorReg x y) s (fun t =>
      (∀ k, (t.readV x).getLsbD k = ((s.readV x).getLsbD k ^^ (s.readV y).getLsbD k)) ∧ t.pc = s.pc + 2#16 ∧
      RegsUnchangedExcept (· = x) s t ∧ UnchangedExcept [.regs, .pc] s t)

/-- ADD Vx, Vy, every form: the sum modulo 256 in Vx, then the carry in VF, which overwrites the sum when x is 15. The order at
x or y = 15 is the spec's decision D7 (log 8). -/
def Obligations.AddRegistersSetsCarry : Prop :=
  DecodesAs 0xF00F#16 0x8004#16 (fun w => .addReg (w.extractLsb' 8 4) (w.extractLsb' 4 4)) ∧
  ∀ (x y : Reg) (s : State),
    Runs (.addReg x y) s (fun t =>
      (t.readV 15#4).toNat = (if (s.readV x).toNat + (s.readV y).toNat > 255 then 1 else 0) ∧
      (x ≠ 15#4 → (t.readV x).toNat = ((s.readV x).toNat + (s.readV y).toNat) % 256) ∧ t.pc = s.pc + 2#16 ∧
      RegsUnchangedExcept (fun r => r = x ∨ r = 15#4) s t ∧ UnchangedExcept [.regs, .pc] s t)

/-- SUB Vx, Vy, every form: VF = 1 iff Vx > Vy, strictly (C2), and then Vx - Vy with VF already written where x or y is 15, the
spec's decision D7 (log 8). -/
def Obligations.SubSetsStrictFlag : Prop :=
  DecodesAs 0xF00F#16 0x8005#16 (fun w => .sub (w.extractLsb' 8 4) (w.extractLsb' 4 4)) ∧
  ∀ (x y : Reg) (s : State),
    Runs (.sub x y) s (fun t =>
      let f := if (s.readV x).toNat > (s.readV y).toNat then 1 else 0
      (x ≠ 15#4 → (t.readV 15#4).toNat = f) ∧
      (x ≠ 15#4 → y ≠ 15#4 → (t.readV x).toNat = ((s.readV x).toNat + 256 - (s.readV y).toNat) % 256) ∧
      (x ≠ 15#4 → y = 15#4 → (t.readV x).toNat = ((s.readV x).toNat + 256 - f) % 256) ∧
      (x = 15#4 → y ≠ 15#4 → (t.readV 15#4).toNat = (f + 256 - (s.readV y).toNat) % 256) ∧
      (x = 15#4 → y = 15#4 → (t.readV 15#4).toNat = 0) ∧ t.pc = s.pc + 2#16 ∧
      RegsUnchangedExcept (fun r => r = x ∨ r = 15#4) s t ∧ UnchangedExcept [.regs, .pc] s t)

/-- SUBN Vx, Vy, every form, as SUB with the operands exchanged (D7, log 8). -/
def Obligations.SubnSetsStrictFlag : Prop :=
  DecodesAs 0xF00F#16 0x8007#16 (fun w => .subn (w.extractLsb' 8 4) (w.extractLsb' 4 4)) ∧
  ∀ (x y : Reg) (s : State),
    Runs (.subn x y) s (fun t =>
      let f := if (s.readV y).toNat > (s.readV x).toNat then 1 else 0
      (x ≠ 15#4 → (t.readV 15#4).toNat = f) ∧
      (x ≠ 15#4 → y ≠ 15#4 → (t.readV x).toNat = ((s.readV y).toNat + 256 - (s.readV x).toNat) % 256) ∧
      (x ≠ 15#4 → y = 15#4 → (t.readV x).toNat = (f + 256 - (s.readV x).toNat) % 256) ∧
      (x = 15#4 → y ≠ 15#4 → (t.readV 15#4).toNat = ((s.readV y).toNat + 256 - f) % 256) ∧
      (x = 15#4 → y = 15#4 → (t.readV 15#4).toNat = 0) ∧ t.pc = s.pc + 2#16 ∧
      RegsUnchangedExcept (fun r => r = x ∨ r = 15#4) s t ∧ UnchangedExcept [.regs, .pc] s t)

/-- SHR Vx: VF the bit shifted out, Vx halved, for every `y`; with x = 15 VF ends 0, the spec's decision D7 (log 8). -/
def Obligations.ShiftRightByOne : Prop :=
  DecodesAs 0xF00F#16 0x8006#16 (fun w => .shr (w.extractLsb' 8 4) (w.extractLsb' 4 4)) ∧
  ∀ (x y : Reg) (s : State),
    Runs (.shr x y) s (fun t =>
      (x ≠ 15#4 → (t.readV 15#4).toNat = (s.readV x).toNat % 2 ∧ (t.readV x).toNat = (s.readV x).toNat / 2) ∧
      (x = 15#4 → (t.readV 15#4).toNat = 0) ∧ t.pc = s.pc + 2#16 ∧
      RegsUnchangedExcept (fun r => r = x ∨ r = 15#4) s t ∧ UnchangedExcept [.regs, .pc] s t) ∧
    ∀ y' : Reg, exec (.shr x y) s = exec (.shr x y') s

/-- SHL Vx: VF the bit shifted out, Vx doubled modulo 256, for every `y`; with x = 15 VF ends as twice the bit, the spec's
decision D7 (log 8). -/
def Obligations.ShiftLeftByOne : Prop :=
  DecodesAs 0xF00F#16 0x800E#16 (fun w => .shl (w.extractLsb' 8 4) (w.extractLsb' 4 4)) ∧
  ∀ (x y : Reg) (s : State),
    Runs (.shl x y) s (fun t =>
      (x ≠ 15#4 → (t.readV 15#4).toNat = (s.readV x).toNat / 128 ∧ (t.readV x).toNat = (s.readV x).toNat * 2 % 256) ∧
      (x = 15#4 → (t.readV 15#4).toNat = 2 * ((s.readV 15#4).toNat / 128)) ∧ t.pc = s.pc + 2#16 ∧
      RegsUnchangedExcept (fun r => r = x ∨ r = 15#4) s t ∧ UnchangedExcept [.regs, .pc] s t) ∧
    ∀ y' : Reg, exec (.shl x y) s = exec (.shl x y') s

/-! ## Families 0xA to 0xC -/

/-- LD I, nnn (R151): zero-extended, so bits 15 to 12 become 0. -/
def Obligations.LoadIndex : Prop :=
  DecodesAs 0xF000#16 0xA000#16 (fun w => .ldI (w.extractLsb' 0 12)) ∧
  ∀ (nnn : Addr12) (s : State),
    Runs (.ldI nnn) s (fun t => t.i.toNat = nnn.toNat ∧ t.pc = s.pc + 2#16 ∧ UnchangedExcept [.index, .pc] s t)

/-- JP V0, nnn: the sum, not reduced modulo 4096; that PC is 16 bits wide is the spec's decision D1. -/
def Obligations.JumpWithOffset : Prop :=
  DecodesAs 0xF000#16 0xB000#16 (fun w => .jpV0 (w.extractLsb' 0 12)) ∧
  ∀ (nnn : Addr12) (s : State),
    Runs (.jpV0 nnn) s (fun t => t.pc.toNat = nnn.toNat + (s.readV 0#4).toNat ∧ UnchangedExcept [.pc] s t)

/-- RND Vx, kk: one byte drawn (the free value `Config.randomByte`, decision D12, log 2), masked by `kk`: bits where `kk` is 0
are 0. The statement holds whatever the byte is. -/
def Obligations.RandomByteMasked : Prop :=
  DecodesAs 0xF000#16 0xC000#16 (fun w => .rnd (w.extractLsb' 8 4) (w.extractLsb' 0 8)) ∧
  ∀ (x : Reg) (kk : Byte) (s : State),
    Runs (.rnd x kk) s (fun t =>
      (∀ k, (t.readV x).getLsbD k = (kk.getLsbD k && (Config.randomByte s.draws).getLsbD k)) ∧ t.draws = s.draws + 1 ∧
      t.pc = s.pc + 2#16 ∧ RegsUnchangedExcept (· = x) s t ∧ UnchangedExcept [.regs, .draws, .pc] s t)

/-! ## Family 0xD -/

/-- DRW (R160, R161): with the sprite in memory, every pixel is XORed with its sprite bit, VF says whether a bit of 1 fell on a
pixel of 1, `display_changed` is set, and nothing else changes. The origin is taken before VF is written (decision D8, log 9). -/
def Obligations.DrawXorsTheSprite : Prop :=
  DecodesAs 0xF000#16 0xD000#16 (fun w => .drw (w.extractLsb' 8 4) (w.extractLsb' 4 4) (w.extractLsb' 0 4)) ∧
  ∀ (x y : Reg) (n : BitVec 4) (s : State), RangeInMemory s n.toNat →
    Runs (.drw x y n) s (fun t =>
      (∀ (r : Fin 32) (c : Fin 64), t.pixel r c = (s.pixel r c ^^ s.spriteBit x y n.toNat r c)) ∧
      (s.collides x y n.toNat → t.readV 15#4 = 1#8) ∧ (¬s.collides x y n.toNat → t.readV 15#4 = 0#8) ∧
      t.displayChanged = true ∧ t.pc = s.pc + 2#16 ∧ RegsUnchangedExcept (· = 15#4) s t ∧
      UnchangedExcept [.regs, .fb, .display, .pc] s t)

/-- Drawing twice (R161): where the second draw has the same operand values, the framebuffer is as before the first, and the
second flag is 1 exactly when some sprite bit of 1 lies on a pixel that was 0 before the first (C3). -/
def Obligations.DrawTwiceRestoresTheFrame : Prop :=
  ∀ (x y : Reg) (n : BitVec 4) (s : State), RangeInMemory s n.toNat →
    Runs (.drw x y n) s (fun t =>
      t.readV x = s.readV x → t.readV y = s.readV y →
      Runs (.drw x y n) t (fun u =>
        u.fb = s.fb ∧
        (u.readV 15#4 = 1#8 ↔ ∃ (r : Fin 32) (c : Fin 64), s.spriteBit x y n.toNat r c = true ∧ s.pixel r c = false)))

/-! ## Family 0xE -/

/-- SKP Vx: for a logical key the oracle's answer decides (the free value `Config.keyPressed`, log 3). For a value above 0x0F, the
spec's decision D10: the report, no query, no skip. -/
def Obligations.SkipIfKeyPressed : Prop :=
  DecodesAs 0xF0FF#16 0xE09E#16 (fun w => .skp (w.extractLsb' 8 4)) ∧
  ∀ (x : Reg) (s : State),
    ((s.readV x).toNat ≤ 0x0F →
      Runs (.skp x) s (fun t =>
        (∀ k : BitVec 4, k.toNat = (s.readV x).toNat →
          (Config.keyPressed s.draws k = true → t.pc = s.pc + 4#16) ∧ (Config.keyPressed s.draws k = false → t.pc = s.pc + 2#16)) ∧
        t.draws = s.draws + 1 ∧ UnchangedExcept [.pc, .draws] s t)) ∧
    (0x0F < (s.readV x).toNat →
      Runs (.skp x) s (fun t =>
        t.report = .keyRange (s.readV x) s.pc ∧ t.faultMark = true ∧ t.pc = s.pc + 2#16 ∧
        UnchangedExcept [.pc, .report, .mark] s t))

/-- SKNP Vx: as SKP with the sense inverted; a value above 0x0F does not skip either (decision D10, log 3). -/
def Obligations.SkipIfKeyNotPressed : Prop :=
  DecodesAs 0xF0FF#16 0xE0A1#16 (fun w => .sknp (w.extractLsb' 8 4)) ∧
  ∀ (x : Reg) (s : State),
    ((s.readV x).toNat ≤ 0x0F →
      Runs (.sknp x) s (fun t =>
        (∀ k : BitVec 4, k.toNat = (s.readV x).toNat →
          (Config.keyPressed s.draws k = false → t.pc = s.pc + 4#16) ∧ (Config.keyPressed s.draws k = true → t.pc = s.pc + 2#16)) ∧
        t.draws = s.draws + 1 ∧ UnchangedExcept [.pc, .draws] s t)) ∧
    (0x0F < (s.readV x).toNat →
      Runs (.sknp x) s (fun t =>
        t.report = .keyRange (s.readV x) s.pc ∧ t.faultMark = true ∧ t.pc = s.pc + 2#16 ∧
        UnchangedExcept [.pc, .report, .mark] s t))

/-! ## Family 0xF -/

/-- LD Vx, DT (R180), and the cycle that runs it: the tick comes after the read. -/
def Obligations.ReadDelayTimer : Prop :=
  DecodesAs 0xF0FF#16 0xF007#16 (fun w => .ldVxDt (w.extractLsb' 8 4)) ∧
  ∀ (x : Reg) (s : State),
    Runs (.ldVxDt x) s (fun t =>
      t.readV x = s.dt ∧ t.pc = s.pc + 2#16 ∧ RegsUnchangedExcept (· = x) s t ∧ UnchangedExcept [.regs, .pc] s t) ∧
    (Fetches s (.ldVxDt x) → ∃ u, step s = .next u ∧ u.readV x = s.dt ∧ u.dt.toNat = (u.readV x).toNat - 1)

/-- LD Vx, K with an oracle that answers: the answer (the free value `Config.keyWait`, log 4), 0 to 15, in Vx; PC + 2; in the
cycle, one tick for the whole wait (decision D11, log 5). -/
def Obligations.KeyWaitStoresTheAnswer : Prop :=
  DecodesAs 0xF0FF#16 0xF00A#16 (fun w => .ldVxK (w.extractLsb' 8 4)) ∧
  ∀ (x : Reg) (s : State), s.oracleAnswers = true →
    Runs (.ldVxK x) s (fun t =>
      (t.readV x).toNat = (Config.keyWait s.draws).toNat ∧ (t.readV x).toNat ≤ 0x0F ∧ t.draws = s.draws + 1 ∧
      t.pc = s.pc + 2#16 ∧ RegsUnchangedExcept (· = x) s t ∧ UnchangedExcept [.regs, .draws, .pc] s t) ∧
    (Fetches s (.ldVxK x) → ∃ u, step s = .next u ∧ u.dt.toNat = s.dt.toNat - 1 ∧ u.st.toNat = s.st.toNat - 1)

/-- LD Vx, K with an oracle that never answers: the Step never returns (R217, R218), so there is no next state; the model's
fault says so (log 5). -/
def Obligations.KeyWaitWithoutAnswerNeverReturns : Prop :=
  ∀ (x : Reg) (s : State), s.oracleAnswers = false →
    exec (.ldVxK x) s = .fault .keyWaitUnanswered ∧ (Fetches s (.ldVxK x) → step s = .fault .keyWaitUnanswered)

/-- LD DT, Vx, and the cycle that runs it, at whose end DT is Vx - 1, or 0 (an inference of the spec, R182 and R246). -/
def Obligations.SetDelayTimer : Prop :=
  DecodesAs 0xF0FF#16 0xF015#16 (fun w => .ldDtVx (w.extractLsb' 8 4)) ∧
  ∀ (x : Reg) (s : State),
    Runs (.ldDtVx x) s (fun t => t.dt = s.readV x ∧ t.pc = s.pc + 2#16 ∧ UnchangedExcept [.dt, .pc] s t) ∧
    (Fetches s (.ldDtVx x) → ∃ u, step s = .next u ∧ u.dt.toNat = (s.readV x).toNat - 1)

/-- LD ST, Vx (R183), and the cycle that runs it, at whose end ST is Vx - 1, or 0. -/
def Obligations.SetSoundTimer : Prop :=
  DecodesAs 0xF0FF#16 0xF018#16 (fun w => .ldStVx (w.extractLsb' 8 4)) ∧
  ∀ (x : Reg) (s : State),
    Runs (.ldStVx x) s (fun t => t.st = s.readV x ∧ t.pc = s.pc + 2#16 ∧ UnchangedExcept [.st, .pc] s t) ∧
    (Fetches s (.ldStVx x) → ∃ u, step s = .next u ∧ u.st.toNat = (s.readV x).toNat - 1)

/-- ADD I, Vx: no flag, not reduced modulo 4096; the wrap at 65536 is the spec's decision D9. -/
def Obligations.AddToIndex : Prop :=
  DecodesAs 0xF0FF#16 0xF01E#16 (fun w => .addI (w.extractLsb' 8 4)) ∧
  ∀ (x : Reg) (s : State),
    Runs (.addI x) s (fun t =>
      t.i.toNat = (s.i.toNat + (s.readV x).toNat) % 65536 ∧ t.pc = s.pc + 2#16 ∧ UnchangedExcept [.index, .pc] s t)

/-- LD F, Vx: all 8 bits of Vx times 5 (no mask is the spec's decision D9); no memory is accessed. -/
def Obligations.IndexOfGlyph : Prop :=
  DecodesAs 0xF0FF#16 0xF029#16 (fun w => .ldF (w.extractLsb' 8 4)) ∧
  ∀ (x : Reg) (s : State),
    Runs (.ldF x) s (fun t => t.i.toNat = (s.readV x).toNat * 5 ∧ t.pc = s.pc + 2#16 ∧ UnchangedExcept [.index, .pc] s t)

/-- LD B, Vx with I+2 in memory: the three digits at I, I+1, I+2 and no other byte written. -/
def Obligations.BcdStoresThreeDigits : Prop :=
  DecodesAs 0xF0FF#16 0xF033#16 (fun w => .ldB (w.extractLsb' 8 4)) ∧
  ∀ (x : Reg) (s : State), s.i.toNat + 2 ≤ 0x0FFF →
    Runs (.ldB x) s (fun t =>
      (t.mem.read s.i.toNat).toNat = (s.readV x).toNat / 100 ∧
      (t.mem.read (s.i.toNat + 1)).toNat = (s.readV x).toNat / 10 % 10 ∧
      (t.mem.read (s.i.toNat + 2)).toNat = (s.readV x).toNat % 10 ∧
      (∀ a, (a < s.i.toNat ∨ s.i.toNat + 2 < a) → t.mem.read a = s.mem.read a) ∧ t.pc = s.pc + 2#16 ∧
      UnchangedExcept [.mem, .pc] s t)

/-- LD [I], Vx with I+x in memory: V0 to Vx at I to I+x and no other byte written; I unchanged. -/
def Obligations.StoreRegisterBlock : Prop :=
  DecodesAs 0xF0FF#16 0xF055#16 (fun w => .storeRegs (w.extractLsb' 8 4)) ∧
  ∀ (x : Reg) (s : State), s.i.toNat + x.toNat ≤ 0x0FFF →
    Runs (.storeRegs x) s (fun t =>
      (∀ r : Reg, r.toNat ≤ x.toNat → t.mem.read (s.i.toNat + r.toNat) = s.readV r) ∧
      (∀ a, (a < s.i.toNat ∨ s.i.toNat + x.toNat < a) → t.mem.read a = s.mem.read a) ∧ t.pc = s.pc + 2#16 ∧
      UnchangedExcept [.mem, .pc] s t)

/-- LD Vx, [I] with I+x in memory: V0 to Vx from I to I+x; the registers above Vx, I and memory unchanged. -/
def Obligations.LoadRegisterBlock : Prop :=
  DecodesAs 0xF0FF#16 0xF065#16 (fun w => .loadRegs (w.extractLsb' 8 4)) ∧
  ∀ (x : Reg) (s : State), s.i.toNat + x.toNat ≤ 0x0FFF →
    Runs (.loadRegs x) s (fun t =>
      (∀ r : Reg, r.toNat ≤ x.toNat → t.readV r = s.mem.read (s.i.toNat + r.toNat)) ∧ t.pc = s.pc + 2#16 ∧
      RegsUnchangedExcept (fun r => r.toNat ≤ x.toNat) s t ∧ UnchangedExcept [.regs, .pc] s t)

/-- Fx55 and then, with any registers and the same I and memory, Fx65 with the same x: V0 to Vx are those stored (R188). -/
def Obligations.StoreThenLoadRestoresTheBlock : Prop :=
  ∀ (x : Reg) (s : State), s.i.toNat + x.toNat ≤ 0x0FFF →
    Runs (.storeRegs x) s (fun t =>
      ∀ v : Vector Byte 16, Runs (.loadRegs x) { t with v := v } (fun u => ∀ r : Reg, r.toNat ≤ x.toNat → u.readV r = s.readV r))

/-- Out of range, DRW, Fx33, Fx55 and Fx65 take the one fatal exception: `halted` and the report with the lowest out-of-range
address, and nothing written. The spec's decision D5, and D8 for the rows that would be clipped (logs 7, 9). -/
def Obligations.OutOfRangeAccessHalts : Prop :=
  ∀ (x y : Reg) (n : BitVec 4) (s : State),
    let faulted := { s with halted := true, report := .addressFault (max s.i.toNat 0x1000), faultMark := true }
    (n ≠ 0#4 → 0x0FFF < s.i.toNat + n.toNat - 1 → exec (.drw x y n) s = .next faulted) ∧
    (0x0FFF < s.i.toNat + 2 → exec (.ldB x) s = .next faulted) ∧
    (0x0FFF < s.i.toNat + x.toNat → exec (.storeRegs x) s = .next faulted ∧ exec (.loadRegs x) s = .next faulted)

/-! ## The cycle -/

/-- A Step of a running core whose bytes at PC decode to an instruction is exec of it on the state with the outputs cleared, and
then the timers' tick unless the instruction took the address fault (R90); a fault of exec is the Step's, and no instruction is
refused. -/
def Obligations.StepRunsTheDecodedInstruction : Prop :=
  ∀ (s : State) (i : Instr), Fetches s i →
    let s0 := { s with displayChanged := false, clearRequested := false, report := .none }
    (∀ t, exec i s0 = .next t → t.halted = true → step s = .next t) ∧
    (∀ t, exec i s0 = .next t → t.halted = false →
      step s = .next { t with dt := BitVec.ofNat 8 (t.dt.toNat - 1), st := BitVec.ofNat 8 (t.st.toNat - 1) }) ∧
    (∀ f, exec i s0 = .fault f → step s = .fault f) ∧ ∀ r, exec i s0 ≠ .refused r

/-- A Step of a running core on a word that no row of the opcode map matches: the report, PC + 2, the tick, nothing else (R104,
R203; the report's form is the spec's decision D6). -/
def Obligations.InvalidWordIsReportedNoOp : Prop :=
  ∀ (s : State) (w : Word), FetchesWord s w → wordWf w = false →
    ∃ u, step s = .next u ∧ u.report = .invalidOpcode w s.pc ∧ u.faultMark = true ∧ u.pc = s.pc + 2#16 ∧
      u.displayChanged = false ∧ u.clearRequested = false ∧ u.dt.toNat = s.dt.toNat - 1 ∧ u.st.toNat = s.st.toNat - 1 ∧
      UnchangedExcept [.pc, .report, .mark, .display, .clear, .dt, .st] s u

/-- A Step of a halted core: the signals cleared, the report `Halted`, nothing else (R209; the latch is the spec's decision D5). -/
def Obligations.HaltedCoreDoesNothing : Prop :=
  ∀ s : State, s.halted = true →
    ∃ u, step s = .next u ∧ u.report = .halted ∧ u.faultMark = true ∧ u.displayChanged = false ∧ u.clearRequested = false ∧
      UnchangedExcept [.report, .mark, .display, .clear] s u

/-- A Step of a running core with no two bytes at PC: `halted`, the report with the lowest address outside memory, no PC change
and no tick (R91, R206; the spec's decision D5). -/
def Obligations.UnfetchablePcHalts : Prop :=
  ∀ s : State, s.halted = false → 0x0FFE < s.pc.toNat →
    ∃ u, step s = .next u ∧ u.halted = true ∧ u.faultMark = true ∧ u.displayChanged = false ∧ u.clearRequested = false ∧
      u.report = .addressFault (if s.pc.toNat = 0x0FFF then 0x1000 else s.pc.toNat) ∧
      UnchangedExcept [.halted, .report, .mark, .display, .clear] s u

/-- The timers over every Step (R214): a cycle that completes leaves each timer one below what it found, or 0, whatever it
executed; a cycle that ends in the address fault and a Step of a halted core leave them alone. -/
def Obligations.TimersTickOncePerCompletedCycle : Prop :=
  ∀ s u : State, step s = .next u →
    (u.halted = true → u.dt = s.dt ∧ u.st = s.st) ∧
    (u.halted = false →
      u.dt.toNat = (timerBeforeTick s (decodeWord (s.mem.readWord s.pc.toNat))).toNat - 1 ∧
      u.st.toNat = (soundBeforeTick s (decodeWord (s.mem.readWord s.pc.toNat))).toNat - 1)

/-- PC over every Step (R92, C9): +2, or +4 by a skip, or the target of a jump, call or return; and no change by a Step that
leaves the core halted. -/
def Obligations.PcMovesOnlyByItsDisposition : Prop :=
  ∀ s u : State, step s = .next u →
    (u.halted = true → u.pc = s.pc) ∧
    (u.halted = false →
      u.pc = s.pc + 2#16 ∨ (∃ i, Fetches s i ∧ isSkip i = true ∧ u.pc = s.pc + 4#16) ∨
      ∃ i, Fetches s i ∧ jumpTarget s i = some u.pc)

/-- The signals over every Step (R31, C5): `display_changed` is set exactly by a DRW that does not fault, `clear_requested` exactly
by CLS, so never both, and the host makes at most one Frame Sink call (R221). -/
def Obligations.SignalsFollowDrawAndClear : Prop :=
  ∀ s u : State, step s = .next u →
    (u.displayChanged = true ↔ u.halted = false ∧ ∃ x y n, Fetches s (.drw x y n)) ∧
    (u.clearRequested = true ↔ Fetches s .cls) ∧ ¬(u.displayChanged = true ∧ u.clearRequested = true) ∧
    (sinkCalls u.output).length ≤ 1

/-- The latch and the report over every Step (R45, R208, R209): the core is halted afterwards exactly if it was before or the cycle
reported an address fault, the report is `Halted` exactly if it was halted before, and the model's mark gathers every report
(U1, log 6). -/
def Obligations.LatchAndMarkFollowTheReport : Prop :=
  ∀ s u : State, step s = .next u →
    (u.halted = true ↔ s.halted = true ∨ ∃ a, u.report = .addressFault a) ∧ (u.report = .halted ↔ s.halted = true) ∧
    (u.faultMark = true ↔ s.faultMark = true ∨ u.report ≠ .none)

/-- What an instruction may write, for all of them at once (the table of R22, and R23, R26 to R31, R61, R67): every register but
those the table gives it, and every other part but those listed for it, is unchanged. -/
def Obligations.NoInstructionWritesOutsideItsTable : Prop :=
  ∀ (i : Instr) (s t : State), exec i s = .next t →
    RegsUnchangedExcept (fun r => mayWriteReg r i) s t ∧ UnchangedExcept (.regs :: mayWritePart i) s t

/-- Only `LD Vx, K` with a silent oracle stops a step: every other Step answers a next state (log 5). -/
def Obligations.EveryStepAnswersButAnUnansweredWait : Prop :=
  ∀ s : State, (∃ u, step s = .next u) ∨ (s.oracleAnswers = false ∧ ∃ x, Fetches s (.ldVxK x))

/-- A store is seen by the very next fetch (R73): after Fx55 with I = PC + 2, the word the next cycle fetches is V0, V1. -/
def Obligations.StoreIsSeenByTheNextFetch : Prop :=
  ∀ (x : Reg) (s : State), 1 ≤ x.toNat → s.pc.toNat + 2 + x.toNat ≤ 0x0FFF → s.i = s.pc + 2#16 → s.halted = false →
    Runs (.storeRegs x) s (fun t => FetchesWord t (wordOfBytes (s.readV 0#4) (s.readV 1#4)))

/-- Every step keeps the invariant, from every state that has it. -/
def Obligations.StepKeepsTheInvariant : Prop :=
  ∀ s u : State, MachineInv s → step s = .next u → MachineInv u

/-- The invariant holds at reset. -/
def Obligations.ResetHasTheInvariant : Prop := MachineInv State.reset

/-- A clean run: where the mark and the latch are clear after a Step, they were clear before it and the Step carried no report
(U1). -/
def Obligations.CleanStatesComeFromCleanStates : Prop :=
  ∀ s u : State, step s = .next u → u.clean = true → s.clean = true ∧ u.report = .none

/-- The model's mark is never cleared (R201 asks it of a model, log 6): not by a Step, nor by Reset, Load or the oracle's moves. -/
def Obligations.MarkIsNeverCleared : Prop :=
  ∀ s : State, s.faultMark = true →
    (∀ u, step s = .next u → u.faultMark = true) ∧ (∀ font : Vector Byte 80, (hostReset font s).faultMark = true) ∧
    (∀ bytes : List Byte, (hostLoad bytes s).faultMark = true) ∧ ∀ answers : Bool, (oracleMove answers s).faultMark = true

/-- What happens between Steps keeps the invariant: Reset establishes it, whatever the state before; Load and the oracle's moves
keep it, and Load keeps the canonical form of memory (log 15) by itself; the oracle's moves change nothing else (log 5). -/
def Obligations.HostMovesKeepTheInvariant : Prop :=
  ∀ (font : Vector Byte 80) (bytes : List Byte) (answers : Bool) (s : State),
    MachineInv (hostReset font s) ∧ (s.mem.wf = true → (hostLoad bytes s).mem.wf = true) ∧
    (MachineInv s → MachineInv (hostLoad bytes s) ∧ MachineInv (oracleMove answers s)) ∧
    UnchangedExcept [.oracle] s (oracleMove answers s) ∧ (oracleMove answers s).oracleAnswers = answers
end

