-- ==== Sys2Proof/Laws/Decode.lean ====
section
/-! SUPPORT. The fields of a word and the formats undo each other, and the masks of R98 test exactly the fields R97 names. -/

namespace Sys2Proof

/-! ### A field of a format -/

@[simp] theorem famOf_formatNNN (f : BitVec 4) (a : Addr12) : famOf (formatNNN f a) = f := by
  apply BitVec.eq_of_getLsbD_eq
  intro i hi
  simp only [famOf, formatNNN, BitVec.getLsbD_append, BitVec.getLsbD_extractLsb', hi, decide_true, Bool.true_and]
  rw [if_neg (by omega)]
  congr 1; omega

@[simp] theorem nnnOf_formatNNN (f : BitVec 4) (a : Addr12) : nnnOf (formatNNN f a) = a := by
  apply BitVec.eq_of_getLsbD_eq
  intro i hi
  simp only [nnnOf, formatNNN, BitVec.getLsbD_append, BitVec.getLsbD_extractLsb', hi, decide_true, Bool.true_and]
  rw [if_pos (by omega)]
  congr 1; omega

@[simp] theorem famOf_formatXKK (f : BitVec 4) (x : Reg) (kk : Byte) : famOf (formatXKK f x kk) = f := by
  apply BitVec.eq_of_getLsbD_eq
  intro i hi
  simp only [famOf, formatXKK, BitVec.getLsbD_append, BitVec.getLsbD_extractLsb', hi, decide_true, Bool.true_and]
  rw [if_neg (by omega), if_neg (by omega)]
  congr 1; omega

@[simp] theorem xOf_formatXKK (f : BitVec 4) (x : Reg) (kk : Byte) : xOf (formatXKK f x kk) = x := by
  apply BitVec.eq_of_getLsbD_eq
  intro i hi
  simp only [xOf, formatXKK, BitVec.getLsbD_append, BitVec.getLsbD_extractLsb', hi, decide_true, Bool.true_and]
  rw [if_neg (by omega), if_pos (by omega)]
  congr 1; omega

@[simp] theorem kkOf_formatXKK (f : BitVec 4) (x : Reg) (kk : Byte) : kkOf (formatXKK f x kk) = kk := by
  apply BitVec.eq_of_getLsbD_eq
  intro i hi
  simp only [kkOf, formatXKK, BitVec.getLsbD_append, BitVec.getLsbD_extractLsb', hi, decide_true, Bool.true_and]
  rw [if_pos (by omega)]
  congr 1; omega

/-- Format `XYN` is format `XKK` with `kk = y * 16 + n` (R95). -/
theorem formatXYN_eq (f : BitVec 4) (x y : Reg) (n : BitVec 4) : formatXYN f x y n = formatXKK f x (y ++ n) := by
  apply BitVec.eq_of_getLsbD_eq
  intro i hi
  simp only [formatXYN, formatXKK, BitVec.getLsbD_append]
  by_cases h1 : i < 4
  · simp [h1, show i < 8 by omega]
  · by_cases h2 : i < 8
    · simp [h1, h2, show i - 4 < 4 by omega]
    · simp only [h1, h2, show ¬i - 4 < 4 by omega, if_false, show i - 4 - 4 = i - 8 by omega]

@[simp] theorem famOf_formatXYN (f : BitVec 4) (x y : Reg) (n : BitVec 4) : famOf (formatXYN f x y n) = f := by
  rw [formatXYN_eq, famOf_formatXKK]

@[simp] theorem xOf_formatXYN (f : BitVec 4) (x y : Reg) (n : BitVec 4) : xOf (formatXYN f x y n) = x := by
  rw [formatXYN_eq, xOf_formatXKK]

@[simp] theorem yOf_formatXYN (f : BitVec 4) (x y : Reg) (n : BitVec 4) : yOf (formatXYN f x y n) = y := by
  apply BitVec.eq_of_getLsbD_eq
  intro i hi
  simp only [yOf, formatXYN, BitVec.getLsbD_append, BitVec.getLsbD_extractLsb', hi, decide_true, Bool.true_and]
  rw [if_neg (by omega), if_pos (by omega)]
  congr 1; omega

@[simp] theorem nOf_formatXYN (f : BitVec 4) (x y : Reg) (n : BitVec 4) : nOf (formatXYN f x y n) = n := by
  apply BitVec.eq_of_getLsbD_eq
  intro i hi
  simp only [nOf, formatXYN, BitVec.getLsbD_append, BitVec.getLsbD_extractLsb', hi, decide_true, Bool.true_and]
  rw [if_pos (by omega)]
  congr 1; omega

/-! ### A word from its fields -/

theorem formatNNN_fields (w : Word) : formatNNN (famOf w) (nnnOf w) = w := by
  apply BitVec.eq_of_getLsbD_eq
  intro i hi
  simp only [famOf, nnnOf, formatNNN, BitVec.getLsbD_append, BitVec.getLsbD_extractLsb']
  split
  · next h => simp [h]
  · next h => simp [show i - 12 < 4 by omega, show 12 + (i - 12) = i by omega]

theorem formatXKK_fields (w : Word) : formatXKK (famOf w) (xOf w) (kkOf w) = w := by
  apply BitVec.eq_of_getLsbD_eq
  intro i hi
  simp only [famOf, xOf, kkOf, formatXKK, BitVec.getLsbD_append, BitVec.getLsbD_extractLsb']
  split
  · next h => simp [h]
  · split
    · next h => simp [h, show 8 + (i - 8) = i by omega]
    · next h h' => simp [show i - 8 - 4 < 4 by omega, show 12 + (i - 8 - 4) = i by omega]

theorem kkOf_eq (w : Word) : kkOf w = yOf w ++ nOf w := by
  apply BitVec.eq_of_getLsbD_eq
  intro i hi
  simp only [kkOf, yOf, nOf, BitVec.getLsbD_append, BitVec.getLsbD_extractLsb', hi, decide_true, Bool.true_and]
  split
  · next h => simp [h]
  · next h => simp [show i - 4 < 4 by omega, show 4 + (i - 4) = i by omega]

theorem formatXYN_fields (w : Word) : formatXYN (famOf w) (xOf w) (yOf w) (nOf w) = w := by
  rw [formatXYN_eq, ← kkOf_eq, formatXKK_fields]

/-- The two bytes of a word make that word again (R63). -/
@[simp] theorem wordOfBytes_fields (w : Word) : wordOfBytes (w.extractLsb' 8 8) (w.extractLsb' 0 8) = w := by
  apply BitVec.eq_of_getLsbD_eq
  intro i hi
  simp only [wordOfBytes, BitVec.getLsbD_append, BitVec.getLsbD_extractLsb']
  split
  · next h => simp [h]
  · next h => simp [show i - 8 < 8 by omega, show 8 + (i - 8) = i by omega]

/-- `decode` on the bytes of a word is `decodeWord` on the word. -/
theorem decode_bytesOfWord (w : Word) (rest : List Byte) :
    decode (bytesOfWord w ++ rest) =
      match decodeWord w with
      | some i => .ok (i, rest)
      | none => .error (.invalidOpcode w) := by
  simp only [bytesOfWord, List.cons_append, List.nil_append, decode, wordOfBytes_fields]
  all_goals rfl

/-! ### What the masks of R98 test -/

theorem formatNNN_and (f g : BitVec 4) (a b : Addr12) :
    formatNNN f a &&& formatNNN g b = formatNNN (f &&& g) (a &&& b) := by
  apply BitVec.eq_of_getLsbD_eq
  intro i hi
  simp only [formatNNN, BitVec.getLsbD_and, BitVec.getLsbD_append]
  split <;> rfl

theorem formatXKK_and (f g : BitVec 4) (x y : Reg) (a b : Byte) :
    formatXKK f x a &&& formatXKK g y b = formatXKK (f &&& g) (x &&& y) (a &&& b) := by
  apply BitVec.eq_of_getLsbD_eq
  intro i hi
  simp only [formatXKK, BitVec.getLsbD_and, BitVec.getLsbD_append]
  repeat' split
  all_goals rfl

theorem formatXYN_and (f g : BitVec 4) (x x' y y' : Reg) (n n' : BitVec 4) :
    formatXYN f x y n &&& formatXYN g x' y' n' = formatXYN (f &&& g) (x &&& x') (y &&& y') (n &&& n') := by
  apply BitVec.eq_of_getLsbD_eq
  intro i hi
  simp only [formatXYN, BitVec.getLsbD_and, BitVec.getLsbD_append]
  repeat' split
  all_goals rfl

theorem and_ones4 (f : BitVec 4) : f &&& 0xF#4 = f := BitVec.and_allOnes

theorem and_ones8 (b : Byte) : b &&& 0xFF#8 = b := BitVec.and_allOnes

/-- Mask F000 tests the family nibble alone. -/
theorem mask_fam (w : Word) (f : BitVec 4) : w &&& 0xF000#16 = formatNNN f 0#12 ↔ famOf w = f := by
  have h : w &&& 0xF000#16 = formatNNN (famOf w) 0#12 := by
    conv_lhs => rw [← formatNNN_fields w]
    rw [show (0xF000#16 : Word) = formatNNN 0xF#4 0#12 from rfl, formatNNN_and, and_ones4, BitVec.and_zero]
  rw [h]
  exact ⟨fun e => by simpa using congrArg famOf e, fun e => by rw [e]⟩

/-- Mask F00F tests the family nibble and the low nibble. -/
theorem mask_fam_n (w : Word) (f n : BitVec 4) :
    w &&& 0xF00F#16 = formatXYN f 0#4 0#4 n ↔ famOf w = f ∧ nOf w = n := by
  have h : w &&& 0xF00F#16 = formatXYN (famOf w) 0#4 0#4 (nOf w) := by
    conv_lhs => rw [← formatXYN_fields w]
    rw [show (0xF00F#16 : Word) = formatXYN 0xF#4 0#4 0#4 0xF#4 from rfl, formatXYN_and, and_ones4, and_ones4,
      BitVec.and_zero, BitVec.and_zero]
  rw [h]
  exact ⟨fun e => ⟨by simpa using congrArg famOf e, by simpa using congrArg nOf e⟩, fun e => by rw [e.1, e.2]⟩

/-- Mask F0FF tests the family nibble and the low byte. -/
theorem mask_fam_kk (w : Word) (f : BitVec 4) (kk : Byte) :
    w &&& 0xF0FF#16 = formatXKK f 0#4 kk ↔ famOf w = f ∧ kkOf w = kk := by
  have h : w &&& 0xF0FF#16 = formatXKK (famOf w) 0#4 (kkOf w) := by
    conv_lhs => rw [← formatXKK_fields w]
    rw [show (0xF0FF#16 : Word) = formatXKK 0xF#4 0#4 0xFF#8 from rfl, formatXKK_and, and_ones4, and_ones8,
      BitVec.and_zero]
  rw [h]
  exact ⟨fun e => ⟨by simpa using congrArg famOf e, by simpa using congrArg kkOf e⟩, fun e => by rw [e.1, e.2]⟩

end Sys2Proof
end

