-- ==== Sys2Proof/Laws/Memory.lean ====
section
/-! SUPPORT. What the memory operations do: a read after a write, a block of bytes, the canonical form kept. -/

namespace Sys2Proof.Machine

/-! ### One byte -/

theorem Memory.read_erase (m : Memory) (a b : Nat) :
    (m.erase a).read b = if b = a then Memory.resetByte a else m.read b := by
  induction m with
  | nil => by_cases h : b = a <;> simp [Memory.erase, Memory.read, h]
  | cons c m ih =>
    obtain ⟨k, x⟩ := c
    by_cases hk : k = a
    · subst hk
      by_cases hb : b = k
      · subst hb; simpa [Memory.erase, Memory.read] using ih
      · simpa [Memory.erase, Memory.read, hb, Ne.symm hb] using ih
    · have : (Memory.erase ((k, x) :: m) a) = (k, x) :: Memory.erase m a := by simp [Memory.erase, hk]
      rw [this, Memory.read, ih, Memory.read]
      by_cases hb : k = b
      · subst hb; simp [hk]
      · simp [hb]

theorem Memory.read_insert (m : Memory) (a : Nat) (x : Byte) (h : ∀ c ∈ m, c.1 ≠ a) (b : Nat) :
    (Memory.insert a x m).read b = if b = a then x else m.read b := by
  induction m with
  | nil => simp only [Memory.insert, Memory.read, eq_comm]
  | cons c m ih =>
    obtain ⟨k, y⟩ := c
    have hk : k ≠ a := h (k, y) (by simp)
    have ih := ih fun c hc => h c (by simp [hc])
    unfold Memory.insert
    split
    · simp only [Memory.read, eq_comm]
    · simp only [Memory.read, ih]
      by_cases hb : k = b
      · subst hb; simp [hk]
      · simp [hb]

/-- A read after a write: the byte written there, and what was there everywhere else (R70). No canonical form is needed. -/
@[simp] theorem Memory.read_write (m : Memory) (a b : Nat) (x : Byte) :
    (m.write a x).read b = if b = a then x else m.read b := by
  unfold Memory.write
  split
  · next h => rw [Memory.read_erase]; split <;> simp_all
  · rw [Memory.read_insert _ _ _ (by simp [Memory.erase])]
    split
    · rfl
    · next h => rw [Memory.read_erase]; simp [h]

/-! ### Blocks -/

/-- A read after a block write: the block's byte inside it, and what was there outside. -/
theorem Memory.read_writeList (bs : List Byte) (m : Memory) (a b : Nat) :
    (m.writeList a bs).read b = if a ≤ b ∧ b < a + bs.length then bs.getD (b - a) 0 else m.read b := by
  induction bs generalizing m a with
  | nil => simp [Memory.writeList]
  | cons x bs ih =>
    simp only [Memory.writeList, ih, Memory.read_write, List.length_cons]
    by_cases h1 : b = a
    · subst h1; simp
    · by_cases h2 : a + 1 ≤ b ∧ b < a + 1 + bs.length
      · have : b - a = (b - (a + 1)) + 1 := by omega
        rw [if_pos h2, if_pos (by omega), this]; simp
      · rw [if_neg h2, if_neg h1, if_neg (by omega)]

@[simp] theorem Memory.length_readList (m : Memory) (a len : Nat) : (m.readList a len).length = len := by
  simp [Memory.readList]

theorem Memory.getD_readList (m : Memory) (a len k : Nat) (h : k < len) :
    (m.readList a len).getD k 0 = m.read (a + k) := by
  simp [Memory.readList, List.getD, h]

/-! ### The canonical form -/

theorem Memory.risingFrom_mono {lo lo' : Nat} (h : lo' ≤ lo) {m : Memory} (hm : Memory.risingFrom lo m = true) :
    Memory.risingFrom lo' m = true := by
  cases m with
  | nil => rfl
  | cons c m => simp_all [Memory.risingFrom]; omega

theorem Memory.risingFrom_erase {m : Memory} {lo : Nat} (a : Nat) (hm : Memory.risingFrom lo m = true) :
    Memory.risingFrom lo (m.erase a) = true := by
  induction m generalizing lo with
  | nil => rfl
  | cons c m ih =>
    obtain ⟨k, x⟩ := c
    simp only [Memory.risingFrom, Bool.and_eq_true, decide_eq_true_eq] at hm
    by_cases hk : k = a
    · have : Memory.erase ((k, x) :: m) a = Memory.erase m a := by simp [Memory.erase, hk]
      rw [this]; exact Memory.risingFrom_mono (by omega) (ih hm.2)
    · have : Memory.erase ((k, x) :: m) a = (k, x) :: Memory.erase m a := by simp [Memory.erase, hk]
      rw [this]; simp [Memory.risingFrom, hm.1, ih hm.2]

theorem Memory.risingFrom_insert {m : Memory} {lo a : Nat} (x : Byte) (hlo : lo ≤ a) (hne : ∀ c ∈ m, c.1 ≠ a)
    (hm : Memory.risingFrom lo m = true) : Memory.risingFrom lo (Memory.insert a x m) = true := by
  induction m generalizing lo with
  | nil => simp [Memory.insert, Memory.risingFrom, hlo]
  | cons c m ih =>
    obtain ⟨k, y⟩ := c
    have hk : k ≠ a := hne (k, y) (by simp)
    simp only [Memory.risingFrom, Bool.and_eq_true, decide_eq_true_eq] at hm
    unfold Memory.insert
    split
    · simp only [Memory.risingFrom, Bool.and_eq_true, decide_eq_true_eq]; exact ⟨hlo, by omega, hm.2⟩
    · simp only [Memory.risingFrom, Bool.and_eq_true, decide_eq_true_eq]
      exact ⟨hm.1, ih (by omega) (fun c hc => hne c (by simp [hc])) hm.2⟩

theorem Memory.mem_insert {m : Memory} {a : Nat} {x : Byte} {c : Host.Cell} (h : c ∈ Memory.insert a x m) :
    c = (a, x) ∨ c ∈ m := by
  induction m with
  | nil => simpa [Memory.insert] using h
  | cons d m ih =>
    obtain ⟨k, y⟩ := d
    unfold Memory.insert at h
    split at h
    · simpa using h
    · rcases List.mem_cons.1 h with h | h
      · exact .inr (by simp [h])
      · rcases ih h with h | h <;> simp [h]

/-- A write inside memory keeps the canonical form. -/
theorem Memory.wf_write {m : Memory} {a : Nat} (x : Byte) (ha : a < Config.memSize) (hm : m.wf = true) :
    (m.write a x).wf = true := by
  simp only [Memory.wf, Bool.and_eq_true, List.all_eq_true, bne_iff_ne, decide_eq_true_eq] at hm ⊢
  have he : ∀ c ∈ m.erase a, c ∈ m ∧ c.1 ≠ a := by simp [Memory.erase]
  unfold Memory.write
  split
  · exact ⟨Memory.risingFrom_erase a hm.1, fun c hc => hm.2 c (he c hc).1⟩
  · next hx =>
    refine ⟨Memory.risingFrom_insert x (Nat.zero_le _) (fun c hc => (he c hc).2) (Memory.risingFrom_erase a hm.1), fun c hc => ?_⟩
    rcases Memory.mem_insert hc with rfl | hc
    · exact ⟨ha, hx⟩
    · exact hm.2 c (he c hc).1

/-- A block write inside memory keeps the canonical form. -/
theorem Memory.wf_writeList (bs : List Byte) {m : Memory} {a : Nat} (ha : a + bs.length ≤ Config.memSize)
    (hm : m.wf = true) : (m.writeList a bs).wf = true := by
  induction bs generalizing m a with
  | nil => exact hm
  | cons x bs ih =>
    simp only [List.length_cons] at ha
    exact ih (by omega) (Memory.wf_write x (by omega) hm)

theorem Memory.wf_nil : Memory.wf [] = true := rfl

end Sys2Proof.Machine
end

