-- ==== Sys2Proof/Laws/Draw.lean ====
section
/-! SUPPORT. What drawing does, once for each of its loops: the pixels it leaves and when it collides. -/

namespace Sys2Proof.Machine

/-- The pixel of a frame. -/
def framePixel (f : Frame) (r : Fin 32) (c : Fin 64) : Bool := f[r][c]

theorem pixel_eq (s : State) (r : Fin 32) (c : Fin 64) : s.pixel r c = framePixel s.fb r c := rfl

/-- Two frames with the same pixels are the same frame. -/
theorem frame_ext {f g : Frame} (h : ∀ r c, framePixel f r c = framePixel g r c) : f = g := by
  apply Vector.ext
  intro r hr
  apply Vector.ext
  intro c hc
  exact h ⟨r, hr⟩ ⟨c, hc⟩

/-- The pixel after one pixel of one row is replaced. -/
theorem framePixel_set (f : Frame) (ty tx : Nat) (b : Bool) (h1 : ty < 32) (h2 : tx < 64) (r : Fin 32) (c : Fin 64) :
    framePixel (f.set ty ((f[ty]'h1).set tx b h2) h1) r c = if r.val = ty ∧ c.val = tx then b else framePixel f r c := by
  obtain ⟨r, hr⟩ := r
  obtain ⟨c, hc⟩ := c
  simp only [framePixel, Fin.getElem_fin, Vector.getElem_set]
  by_cases e : ty = r
  · subst e
    simp only [if_true, Vector.getElem_set]
    by_cases e2 : tx = c <;> simp [e2, eq_comm]
  · simp [e, Ne.symm e]

/-- One sprite bit: the pixels after it. -/
theorem blitBit_pixel (ty ox : Nat) (b : Byte) (acc : Frame × Bool) (col : Nat) (r : Fin 32) (c : Fin 64) :
    framePixel (blitBit ty ox b acc col).1 r c =
      if r.val = ty ∧ c.val = ox + col then (framePixel acc.1 r c ^^ b.getLsbD (7 - col)) else framePixel acc.1 r c := by
  unfold blitBit
  split
  · next h =>
    rw [framePixel_set]
    split
    · next e => obtain ⟨rfl, e2⟩ := e; simp [framePixel, e2]
    · rfl
  · next h => rw [if_neg]; rintro ⟨h1, h2⟩; omega

/-- One sprite bit: whether there is a collision after it. -/
theorem blitBit_hit (ty ox : Nat) (b : Byte) (acc : Frame × Bool) (col : Nat) :
    (blitBit ty ox b acc col).2 = true ↔
      acc.2 = true ∨ ∃ (r : Fin 32) (c : Fin 64), r.val = ty ∧ c.val = ox + col ∧ b.getLsbD (7 - col) = true ∧
        framePixel acc.1 r c = true := by
  unfold blitBit
  split
  · next h =>
    simp only [Bool.or_eq_true, Bool.and_eq_true]
    constructor
    · rintro (h1 | ⟨h1, h2⟩)
      · exact .inl h1
      · exact .inr ⟨⟨ty, h.1⟩, ⟨ox + col, h.2⟩, rfl, rfl, h1, h2⟩
    · rintro (h1 | ⟨r, c, rfl, hc, h1, h2⟩)
      · exact .inl h1
      · refine .inr ⟨h1, ?_⟩
        have : c = ⟨ox + col, h.2⟩ := Fin.ext hc
        subst this; exact h2
  · next h =>
    constructor
    · exact .inl
    · rintro (h1 | ⟨r, c, rfl, hc, _, _⟩)
      · exact h1
      · omega

/-- The first `k` bits of a sprite row: the pixels after them. -/
theorem blitBits_pixel (ty ox : Nat) (b : Byte) (acc : Frame × Bool) (k : Nat) (r : Fin 32) (c : Fin 64) :
    framePixel ((List.range k).foldl (blitBit ty ox b) acc).1 r c =
      if r.val = ty ∧ ox ≤ c.val ∧ c.val < ox + k then (framePixel acc.1 r c ^^ b.getLsbD (7 - (c.val - ox)))
      else framePixel acc.1 r c := by
  induction k with
  | zero => rw [if_neg (by omega)]; rfl
  | succ k ih =>
    rw [List.range_succ, List.foldl_append, List.foldl_cons, List.foldl_nil, blitBit_pixel, ih]
    by_cases h : r.val = ty ∧ c.val = ox + k
    · rw [if_pos h, if_neg (by omega), if_pos (by omega), show c.val - ox = k by omega]
    · rw [if_neg h]
      by_cases h2 : r.val = ty ∧ ox ≤ c.val ∧ c.val < ox + k
      · rw [if_pos h2, if_pos (by omega)]
      · rw [if_neg h2, if_neg (by omega)]

/-- The first `k` bits of a sprite row: whether there is a collision after them. -/
theorem blitBits_hit (ty ox : Nat) (b : Byte) (acc : Frame × Bool) (k : Nat) :
    ((List.range k).foldl (blitBit ty ox b) acc).2 = true ↔
      acc.2 = true ∨ ∃ (r : Fin 32) (c : Fin 64), r.val = ty ∧ (ox ≤ c.val ∧ c.val < ox + k) ∧
        b.getLsbD (7 - (c.val - ox)) = true ∧ framePixel acc.1 r c = true := by
  induction k with
  | zero =>
    constructor
    · exact .inl
    · rintro (h | ⟨r, c, _, h, _⟩)
      · exact h
      · omega
  | succ k ih =>
    rw [List.range_succ, List.foldl_append, List.foldl_cons, List.foldl_nil, blitBit_hit, ih]
    constructor
    · rintro ((h | ⟨r, c, hr, hc, hb, hp⟩) | ⟨r, c, hr, hc, hb, hp⟩)
      · exact .inl h
      · exact .inr ⟨r, c, hr, by omega, hb, hp⟩
      · rw [blitBits_pixel, if_neg (by omega)] at hp
        exact .inr ⟨r, c, hr, by omega, by rw [show c.val - ox = k by omega]; exact hb, hp⟩
    · rintro (h | ⟨r, c, hr, hc, hb, hp⟩)
      · exact .inl (.inl h)
      · by_cases e : c.val = ox + k
        · refine .inr ⟨r, c, hr, e, by rw [show c.val - ox = k by omega] at hb; exact hb, ?_⟩
          rw [blitBits_pixel, if_neg (by omega)]; exact hp
        · exact .inl (.inr ⟨r, c, hr, by omega, hb, hp⟩)

/-- All sprite rows: the pixels after them. A row past the bottom edge has no pixel, so clipping needs no case (R162). -/
theorem blitRows_pixel (ox : Nat) (bs : List Byte) (ty : Nat) (acc : Frame × Bool) (r : Fin 32) (c : Fin 64) :
    framePixel (blitRows ox ty bs acc).1 r c =
      if (ty ≤ r.val ∧ r.val < ty + bs.length) ∧ ox ≤ c.val ∧ c.val < ox + 8 then
        (framePixel acc.1 r c ^^ (bs.getD (r.val - ty) 0).getLsbD (7 - (c.val - ox)))
      else framePixel acc.1 r c := by
  induction bs generalizing ty acc with
  | nil => rw [if_neg (by rw [List.length_nil]; omega)]; rfl
  | cons b bs ih =>
    have hr := r.isLt
    simp only [blitRows, List.length_cons]
    split
    · rw [ih, blitRow, blitBits_pixel]
      by_cases e : r.val = ty
      · rw [if_neg (by omega)]
        by_cases hc : ox ≤ c.val ∧ c.val < ox + 8
        · rw [if_pos ⟨e, hc⟩, if_pos ⟨by omega, hc⟩, e]; simp
        · rw [if_neg (by tauto), if_neg (by tauto)]
      · have e2 : ¬(r.val = ty ∧ ox ≤ c.val ∧ c.val < ox + 8) := by tauto
        rw [if_neg e2]
        by_cases h2 : (ty + 1 ≤ r.val ∧ r.val < ty + 1 + bs.length) ∧ ox ≤ c.val ∧ c.val < ox + 8
        · rw [if_pos h2, if_pos ⟨by omega, h2.2⟩, show r.val - ty = r.val - (ty + 1) + 1 by omega]; simp
        · rw [if_neg h2, if_neg (by omega)]
    · rw [if_neg (by omega)]

/-- All sprite rows: whether there is a collision after them. -/
theorem blitRows_hit (ox : Nat) (bs : List Byte) (ty : Nat) (acc : Frame × Bool) :
    (blitRows ox ty bs acc).2 = true ↔
      acc.2 = true ∨ ∃ (r : Fin 32) (c : Fin 64), (ty ≤ r.val ∧ r.val < ty + bs.length) ∧
        (ox ≤ c.val ∧ c.val < ox + 8) ∧ (bs.getD (r.val - ty) 0).getLsbD (7 - (c.val - ox)) = true ∧
        framePixel acc.1 r c = true := by
  induction bs generalizing ty acc with
  | nil =>
    constructor
    · exact .inl
    · rintro (h | ⟨r, c, h, _⟩)
      · exact h
      · simp at h; omega
  | cons b bs ih =>
    simp only [blitRows, List.length_cons]
    split
    · rw [ih, blitRow, blitBits_hit]
      constructor
      · rintro ((h | ⟨r, c, hr, hc, hb, hp⟩) | ⟨r, c, hr, hc, hb, hp⟩)
        · exact .inl h
        · exact .inr ⟨r, c, by omega, hc, by rw [hr]; simpa using hb, hp⟩
        · rw [blitBits_pixel, if_neg (by omega)] at hp
          exact .inr ⟨r, c, by omega, hc, by rw [show r.val - ty = r.val - (ty + 1) + 1 by omega]; simpa using hb, hp⟩
      · rintro (h | ⟨r, c, hr, hc, hb, hp⟩)
        · exact .inl (.inl h)
        · by_cases e : r.val = ty
          · exact .inl (.inr ⟨r, c, e, hc, by rw [e] at hb; simpa using hb, hp⟩)
          · refine .inr ⟨r, c, by omega, hc, ?_, ?_⟩
            · rw [show r.val - ty = r.val - (ty + 1) + 1 by omega] at hb; simpa using hb
            · rw [blitBits_pixel, if_neg (by omega)]; exact hp
    · next h32 =>
      constructor
      · exact .inl
      · rintro (h | ⟨r, c, h, _⟩)
        · exact h
        · have := r.isLt; omega

end Sys2Proof.Machine
end

