-- ==== Sys2Proof/Laws/State.lean ====
section
/-! SUPPORT. One lemma per field per update of State, so that no proof unfolds a record update. Every lemma is true by
definition; the register file read through `readV` follows at the end. -/

namespace Sys2Proof.Machine

variable (s : State)

/-! ### writeV -/

@[simp] theorem State.writeV_v (x : Reg) (b : Byte) : (s.writeV x b).v = s.v.set x.toNat b x.isLt := rfl
@[simp] theorem State.writeV_i (x : Reg) (b : Byte) : (s.writeV x b).i = s.i := rfl
@[simp] theorem State.writeV_pc (x : Reg) (b : Byte) : (s.writeV x b).pc = s.pc := rfl
@[simp] theorem State.writeV_sp (x : Reg) (b : Byte) : (s.writeV x b).sp = s.sp := rfl
@[simp] theorem State.writeV_stack (x : Reg) (b : Byte) : (s.writeV x b).stack = s.stack := rfl
@[simp] theorem State.writeV_dt (x : Reg) (b : Byte) : (s.writeV x b).dt = s.dt := rfl
@[simp] theorem State.writeV_st (x : Reg) (b : Byte) : (s.writeV x b).st = s.st := rfl
@[simp] theorem State.writeV_mem (x : Reg) (b : Byte) : (s.writeV x b).mem = s.mem := rfl
@[simp] theorem State.writeV_fb (x : Reg) (b : Byte) : (s.writeV x b).fb = s.fb := rfl
@[simp] theorem State.writeV_displayChanged (x : Reg) (b : Byte) : (s.writeV x b).displayChanged = s.displayChanged := rfl
@[simp] theorem State.writeV_clearRequested (x : Reg) (b : Byte) : (s.writeV x b).clearRequested = s.clearRequested := rfl
@[simp] theorem State.writeV_report (x : Reg) (b : Byte) : (s.writeV x b).report = s.report := rfl
@[simp] theorem State.writeV_halted (x : Reg) (b : Byte) : (s.writeV x b).halted = s.halted := rfl
@[simp] theorem State.writeV_faultMark (x : Reg) (b : Byte) : (s.writeV x b).faultMark = s.faultMark := rfl
@[simp] theorem State.writeV_draws (x : Reg) (b : Byte) : (s.writeV x b).draws = s.draws := rfl
@[simp] theorem State.writeV_oracleAnswers (x : Reg) (b : Byte) : (s.writeV x b).oracleAnswers = s.oracleAnswers := rfl

/-! ### setRegs -/

@[simp] theorem State.setRegs_v (v : Vector Byte 16) : (s.setRegs v).v = v := rfl
@[simp] theorem State.setRegs_i (v : Vector Byte 16) : (s.setRegs v).i = s.i := rfl
@[simp] theorem State.setRegs_pc (v : Vector Byte 16) : (s.setRegs v).pc = s.pc := rfl
@[simp] theorem State.setRegs_sp (v : Vector Byte 16) : (s.setRegs v).sp = s.sp := rfl
@[simp] theorem State.setRegs_stack (v : Vector Byte 16) : (s.setRegs v).stack = s.stack := rfl
@[simp] theorem State.setRegs_dt (v : Vector Byte 16) : (s.setRegs v).dt = s.dt := rfl
@[simp] theorem State.setRegs_st (v : Vector Byte 16) : (s.setRegs v).st = s.st := rfl
@[simp] theorem State.setRegs_mem (v : Vector Byte 16) : (s.setRegs v).mem = s.mem := rfl
@[simp] theorem State.setRegs_fb (v : Vector Byte 16) : (s.setRegs v).fb = s.fb := rfl
@[simp] theorem State.setRegs_displayChanged (v : Vector Byte 16) : (s.setRegs v).displayChanged = s.displayChanged := rfl
@[simp] theorem State.setRegs_clearRequested (v : Vector Byte 16) : (s.setRegs v).clearRequested = s.clearRequested := rfl
@[simp] theorem State.setRegs_report (v : Vector Byte 16) : (s.setRegs v).report = s.report := rfl
@[simp] theorem State.setRegs_halted (v : Vector Byte 16) : (s.setRegs v).halted = s.halted := rfl
@[simp] theorem State.setRegs_faultMark (v : Vector Byte 16) : (s.setRegs v).faultMark = s.faultMark := rfl
@[simp] theorem State.setRegs_draws (v : Vector Byte 16) : (s.setRegs v).draws = s.draws := rfl
@[simp] theorem State.setRegs_oracleAnswers (v : Vector Byte 16) : (s.setRegs v).oracleAnswers = s.oracleAnswers := rfl

/-! ### setI -/

@[simp] theorem State.setI_v (a : Word) : (s.setI a).v = s.v := rfl
@[simp] theorem State.setI_i (a : Word) : (s.setI a).i = a := rfl
@[simp] theorem State.setI_pc (a : Word) : (s.setI a).pc = s.pc := rfl
@[simp] theorem State.setI_sp (a : Word) : (s.setI a).sp = s.sp := rfl
@[simp] theorem State.setI_stack (a : Word) : (s.setI a).stack = s.stack := rfl
@[simp] theorem State.setI_dt (a : Word) : (s.setI a).dt = s.dt := rfl
@[simp] theorem State.setI_st (a : Word) : (s.setI a).st = s.st := rfl
@[simp] theorem State.setI_mem (a : Word) : (s.setI a).mem = s.mem := rfl
@[simp] theorem State.setI_fb (a : Word) : (s.setI a).fb = s.fb := rfl
@[simp] theorem State.setI_displayChanged (a : Word) : (s.setI a).displayChanged = s.displayChanged := rfl
@[simp] theorem State.setI_clearRequested (a : Word) : (s.setI a).clearRequested = s.clearRequested := rfl
@[simp] theorem State.setI_report (a : Word) : (s.setI a).report = s.report := rfl
@[simp] theorem State.setI_halted (a : Word) : (s.setI a).halted = s.halted := rfl
@[simp] theorem State.setI_faultMark (a : Word) : (s.setI a).faultMark = s.faultMark := rfl
@[simp] theorem State.setI_draws (a : Word) : (s.setI a).draws = s.draws := rfl
@[simp] theorem State.setI_oracleAnswers (a : Word) : (s.setI a).oracleAnswers = s.oracleAnswers := rfl

/-! ### setPc -/

@[simp] theorem State.setPc_v (a : Word) : (s.setPc a).v = s.v := rfl
@[simp] theorem State.setPc_i (a : Word) : (s.setPc a).i = s.i := rfl
@[simp] theorem State.setPc_pc (a : Word) : (s.setPc a).pc = a := rfl
@[simp] theorem State.setPc_sp (a : Word) : (s.setPc a).sp = s.sp := rfl
@[simp] theorem State.setPc_stack (a : Word) : (s.setPc a).stack = s.stack := rfl
@[simp] theorem State.setPc_dt (a : Word) : (s.setPc a).dt = s.dt := rfl
@[simp] theorem State.setPc_st (a : Word) : (s.setPc a).st = s.st := rfl
@[simp] theorem State.setPc_mem (a : Word) : (s.setPc a).mem = s.mem := rfl
@[simp] theorem State.setPc_fb (a : Word) : (s.setPc a).fb = s.fb := rfl
@[simp] theorem State.setPc_displayChanged (a : Word) : (s.setPc a).displayChanged = s.displayChanged := rfl
@[simp] theorem State.setPc_clearRequested (a : Word) : (s.setPc a).clearRequested = s.clearRequested := rfl
@[simp] theorem State.setPc_report (a : Word) : (s.setPc a).report = s.report := rfl
@[simp] theorem State.setPc_halted (a : Word) : (s.setPc a).halted = s.halted := rfl
@[simp] theorem State.setPc_faultMark (a : Word) : (s.setPc a).faultMark = s.faultMark := rfl
@[simp] theorem State.setPc_draws (a : Word) : (s.setPc a).draws = s.draws := rfl
@[simp] theorem State.setPc_oracleAnswers (a : Word) : (s.setPc a).oracleAnswers = s.oracleAnswers := rfl

/-! ### dispose -/

@[simp] theorem State.dispose_v (d : Disposition) : (s.dispose d).v = s.v := rfl
@[simp] theorem State.dispose_i (d : Disposition) : (s.dispose d).i = s.i := rfl
@[simp] theorem State.dispose_pc (d : Disposition) : (s.dispose d).pc = pcAfter s.pc d := rfl
@[simp] theorem State.dispose_sp (d : Disposition) : (s.dispose d).sp = s.sp := rfl
@[simp] theorem State.dispose_stack (d : Disposition) : (s.dispose d).stack = s.stack := rfl
@[simp] theorem State.dispose_dt (d : Disposition) : (s.dispose d).dt = s.dt := rfl
@[simp] theorem State.dispose_st (d : Disposition) : (s.dispose d).st = s.st := rfl
@[simp] theorem State.dispose_mem (d : Disposition) : (s.dispose d).mem = s.mem := rfl
@[simp] theorem State.dispose_fb (d : Disposition) : (s.dispose d).fb = s.fb := rfl
@[simp] theorem State.dispose_displayChanged (d : Disposition) : (s.dispose d).displayChanged = s.displayChanged := rfl
@[simp] theorem State.dispose_clearRequested (d : Disposition) : (s.dispose d).clearRequested = s.clearRequested := rfl
@[simp] theorem State.dispose_report (d : Disposition) : (s.dispose d).report = s.report := rfl
@[simp] theorem State.dispose_halted (d : Disposition) : (s.dispose d).halted = s.halted := rfl
@[simp] theorem State.dispose_faultMark (d : Disposition) : (s.dispose d).faultMark = s.faultMark := rfl
@[simp] theorem State.dispose_draws (d : Disposition) : (s.dispose d).draws = s.draws := rfl
@[simp] theorem State.dispose_oracleAnswers (d : Disposition) : (s.dispose d).oracleAnswers = s.oracleAnswers := rfl

/-! ### setDt -/

@[simp] theorem State.setDt_v (b : Byte) : (s.setDt b).v = s.v := rfl
@[simp] theorem State.setDt_i (b : Byte) : (s.setDt b).i = s.i := rfl
@[simp] theorem State.setDt_pc (b : Byte) : (s.setDt b).pc = s.pc := rfl
@[simp] theorem State.setDt_sp (b : Byte) : (s.setDt b).sp = s.sp := rfl
@[simp] theorem State.setDt_stack (b : Byte) : (s.setDt b).stack = s.stack := rfl
@[simp] theorem State.setDt_dt (b : Byte) : (s.setDt b).dt = b := rfl
@[simp] theorem State.setDt_st (b : Byte) : (s.setDt b).st = s.st := rfl
@[simp] theorem State.setDt_mem (b : Byte) : (s.setDt b).mem = s.mem := rfl
@[simp] theorem State.setDt_fb (b : Byte) : (s.setDt b).fb = s.fb := rfl
@[simp] theorem State.setDt_displayChanged (b : Byte) : (s.setDt b).displayChanged = s.displayChanged := rfl
@[simp] theorem State.setDt_clearRequested (b : Byte) : (s.setDt b).clearRequested = s.clearRequested := rfl
@[simp] theorem State.setDt_report (b : Byte) : (s.setDt b).report = s.report := rfl
@[simp] theorem State.setDt_halted (b : Byte) : (s.setDt b).halted = s.halted := rfl
@[simp] theorem State.setDt_faultMark (b : Byte) : (s.setDt b).faultMark = s.faultMark := rfl
@[simp] theorem State.setDt_draws (b : Byte) : (s.setDt b).draws = s.draws := rfl
@[simp] theorem State.setDt_oracleAnswers (b : Byte) : (s.setDt b).oracleAnswers = s.oracleAnswers := rfl

/-! ### setSt -/

@[simp] theorem State.setSt_v (b : Byte) : (s.setSt b).v = s.v := rfl
@[simp] theorem State.setSt_i (b : Byte) : (s.setSt b).i = s.i := rfl
@[simp] theorem State.setSt_pc (b : Byte) : (s.setSt b).pc = s.pc := rfl
@[simp] theorem State.setSt_sp (b : Byte) : (s.setSt b).sp = s.sp := rfl
@[simp] theorem State.setSt_stack (b : Byte) : (s.setSt b).stack = s.stack := rfl
@[simp] theorem State.setSt_dt (b : Byte) : (s.setSt b).dt = s.dt := rfl
@[simp] theorem State.setSt_st (b : Byte) : (s.setSt b).st = b := rfl
@[simp] theorem State.setSt_mem (b : Byte) : (s.setSt b).mem = s.mem := rfl
@[simp] theorem State.setSt_fb (b : Byte) : (s.setSt b).fb = s.fb := rfl
@[simp] theorem State.setSt_displayChanged (b : Byte) : (s.setSt b).displayChanged = s.displayChanged := rfl
@[simp] theorem State.setSt_clearRequested (b : Byte) : (s.setSt b).clearRequested = s.clearRequested := rfl
@[simp] theorem State.setSt_report (b : Byte) : (s.setSt b).report = s.report := rfl
@[simp] theorem State.setSt_halted (b : Byte) : (s.setSt b).halted = s.halted := rfl
@[simp] theorem State.setSt_faultMark (b : Byte) : (s.setSt b).faultMark = s.faultMark := rfl
@[simp] theorem State.setSt_draws (b : Byte) : (s.setSt b).draws = s.draws := rfl
@[simp] theorem State.setSt_oracleAnswers (b : Byte) : (s.setSt b).oracleAnswers = s.oracleAnswers := rfl

/-! ### setMem -/

@[simp] theorem State.setMem_v (m : Memory) : (s.setMem m).v = s.v := rfl
@[simp] theorem State.setMem_i (m : Memory) : (s.setMem m).i = s.i := rfl
@[simp] theorem State.setMem_pc (m : Memory) : (s.setMem m).pc = s.pc := rfl
@[simp] theorem State.setMem_sp (m : Memory) : (s.setMem m).sp = s.sp := rfl
@[simp] theorem State.setMem_stack (m : Memory) : (s.setMem m).stack = s.stack := rfl
@[simp] theorem State.setMem_dt (m : Memory) : (s.setMem m).dt = s.dt := rfl
@[simp] theorem State.setMem_st (m : Memory) : (s.setMem m).st = s.st := rfl
@[simp] theorem State.setMem_mem (m : Memory) : (s.setMem m).mem = m := rfl
@[simp] theorem State.setMem_fb (m : Memory) : (s.setMem m).fb = s.fb := rfl
@[simp] theorem State.setMem_displayChanged (m : Memory) : (s.setMem m).displayChanged = s.displayChanged := rfl
@[simp] theorem State.setMem_clearRequested (m : Memory) : (s.setMem m).clearRequested = s.clearRequested := rfl
@[simp] theorem State.setMem_report (m : Memory) : (s.setMem m).report = s.report := rfl
@[simp] theorem State.setMem_halted (m : Memory) : (s.setMem m).halted = s.halted := rfl
@[simp] theorem State.setMem_faultMark (m : Memory) : (s.setMem m).faultMark = s.faultMark := rfl
@[simp] theorem State.setMem_draws (m : Memory) : (s.setMem m).draws = s.draws := rfl
@[simp] theorem State.setMem_oracleAnswers (m : Memory) : (s.setMem m).oracleAnswers = s.oracleAnswers := rfl

/-! ### storeAtI -/

@[simp] theorem State.storeAtI_v (bs : List Byte) : (s.storeAtI bs).v = s.v := rfl
@[simp] theorem State.storeAtI_i (bs : List Byte) : (s.storeAtI bs).i = s.i := rfl
@[simp] theorem State.storeAtI_pc (bs : List Byte) : (s.storeAtI bs).pc = s.pc := rfl
@[simp] theorem State.storeAtI_sp (bs : List Byte) : (s.storeAtI bs).sp = s.sp := rfl
@[simp] theorem State.storeAtI_stack (bs : List Byte) : (s.storeAtI bs).stack = s.stack := rfl
@[simp] theorem State.storeAtI_dt (bs : List Byte) : (s.storeAtI bs).dt = s.dt := rfl
@[simp] theorem State.storeAtI_st (bs : List Byte) : (s.storeAtI bs).st = s.st := rfl
@[simp] theorem State.storeAtI_mem (bs : List Byte) : (s.storeAtI bs).mem = s.mem.writeList s.i.toNat bs := rfl
@[simp] theorem State.storeAtI_fb (bs : List Byte) : (s.storeAtI bs).fb = s.fb := rfl
@[simp] theorem State.storeAtI_displayChanged (bs : List Byte) : (s.storeAtI bs).displayChanged = s.displayChanged := rfl
@[simp] theorem State.storeAtI_clearRequested (bs : List Byte) : (s.storeAtI bs).clearRequested = s.clearRequested := rfl
@[simp] theorem State.storeAtI_report (bs : List Byte) : (s.storeAtI bs).report = s.report := rfl
@[simp] theorem State.storeAtI_halted (bs : List Byte) : (s.storeAtI bs).halted = s.halted := rfl
@[simp] theorem State.storeAtI_faultMark (bs : List Byte) : (s.storeAtI bs).faultMark = s.faultMark := rfl
@[simp] theorem State.storeAtI_draws (bs : List Byte) : (s.storeAtI bs).draws = s.draws := rfl
@[simp] theorem State.storeAtI_oracleAnswers (bs : List Byte) : (s.storeAtI bs).oracleAnswers = s.oracleAnswers := rfl

/-! ### drawn -/

@[simp] theorem State.drawn_v (f : Frame) : (s.drawn f).v = s.v := rfl
@[simp] theorem State.drawn_i (f : Frame) : (s.drawn f).i = s.i := rfl
@[simp] theorem State.drawn_pc (f : Frame) : (s.drawn f).pc = s.pc := rfl
@[simp] theorem State.drawn_sp (f : Frame) : (s.drawn f).sp = s.sp := rfl
@[simp] theorem State.drawn_stack (f : Frame) : (s.drawn f).stack = s.stack := rfl
@[simp] theorem State.drawn_dt (f : Frame) : (s.drawn f).dt = s.dt := rfl
@[simp] theorem State.drawn_st (f : Frame) : (s.drawn f).st = s.st := rfl
@[simp] theorem State.drawn_mem (f : Frame) : (s.drawn f).mem = s.mem := rfl
@[simp] theorem State.drawn_fb (f : Frame) : (s.drawn f).fb = f := rfl
@[simp] theorem State.drawn_displayChanged (f : Frame) : (s.drawn f).displayChanged = true := rfl
@[simp] theorem State.drawn_clearRequested (f : Frame) : (s.drawn f).clearRequested = s.clearRequested := rfl
@[simp] theorem State.drawn_report (f : Frame) : (s.drawn f).report = s.report := rfl
@[simp] theorem State.drawn_halted (f : Frame) : (s.drawn f).halted = s.halted := rfl
@[simp] theorem State.drawn_faultMark (f : Frame) : (s.drawn f).faultMark = s.faultMark := rfl
@[simp] theorem State.drawn_draws (f : Frame) : (s.drawn f).draws = s.draws := rfl
@[simp] theorem State.drawn_oracleAnswers (f : Frame) : (s.drawn f).oracleAnswers = s.oracleAnswers := rfl

/-! ### cleared -/

@[simp] theorem State.cleared_v : (s.cleared).v = s.v := rfl
@[simp] theorem State.cleared_i : (s.cleared).i = s.i := rfl
@[simp] theorem State.cleared_pc : (s.cleared).pc = s.pc := rfl
@[simp] theorem State.cleared_sp : (s.cleared).sp = s.sp := rfl
@[simp] theorem State.cleared_stack : (s.cleared).stack = s.stack := rfl
@[simp] theorem State.cleared_dt : (s.cleared).dt = s.dt := rfl
@[simp] theorem State.cleared_st : (s.cleared).st = s.st := rfl
@[simp] theorem State.cleared_mem : (s.cleared).mem = s.mem := rfl
@[simp] theorem State.cleared_fb : (s.cleared).fb = Vector.replicate 32 (Vector.replicate 64 false) := rfl
@[simp] theorem State.cleared_displayChanged : (s.cleared).displayChanged = s.displayChanged := rfl
@[simp] theorem State.cleared_clearRequested : (s.cleared).clearRequested = true := rfl
@[simp] theorem State.cleared_report : (s.cleared).report = s.report := rfl
@[simp] theorem State.cleared_halted : (s.cleared).halted = s.halted := rfl
@[simp] theorem State.cleared_faultMark : (s.cleared).faultMark = s.faultMark := rfl
@[simp] theorem State.cleared_draws : (s.cleared).draws = s.draws := rfl
@[simp] theorem State.cleared_oracleAnswers : (s.cleared).oracleAnswers = s.oracleAnswers := rfl

/-! ### setStack -/

@[simp] theorem State.setStack_v (k : Vector Word 16) (n : Fin 17) : (s.setStack k n).v = s.v := rfl
@[simp] theorem State.setStack_i (k : Vector Word 16) (n : Fin 17) : (s.setStack k n).i = s.i := rfl
@[simp] theorem State.setStack_pc (k : Vector Word 16) (n : Fin 17) : (s.setStack k n).pc = s.pc := rfl
@[simp] theorem State.setStack_sp (k : Vector Word 16) (n : Fin 17) : (s.setStack k n).sp = n := rfl
@[simp] theorem State.setStack_stack (k : Vector Word 16) (n : Fin 17) : (s.setStack k n).stack = k := rfl
@[simp] theorem State.setStack_dt (k : Vector Word 16) (n : Fin 17) : (s.setStack k n).dt = s.dt := rfl
@[simp] theorem State.setStack_st (k : Vector Word 16) (n : Fin 17) : (s.setStack k n).st = s.st := rfl
@[simp] theorem State.setStack_mem (k : Vector Word 16) (n : Fin 17) : (s.setStack k n).mem = s.mem := rfl
@[simp] theorem State.setStack_fb (k : Vector Word 16) (n : Fin 17) : (s.setStack k n).fb = s.fb := rfl
@[simp] theorem State.setStack_displayChanged (k : Vector Word 16) (n : Fin 17) : (s.setStack k n).displayChanged = s.displayChanged := rfl
@[simp] theorem State.setStack_clearRequested (k : Vector Word 16) (n : Fin 17) : (s.setStack k n).clearRequested = s.clearRequested := rfl
@[simp] theorem State.setStack_report (k : Vector Word 16) (n : Fin 17) : (s.setStack k n).report = s.report := rfl
@[simp] theorem State.setStack_halted (k : Vector Word 16) (n : Fin 17) : (s.setStack k n).halted = s.halted := rfl
@[simp] theorem State.setStack_faultMark (k : Vector Word 16) (n : Fin 17) : (s.setStack k n).faultMark = s.faultMark := rfl
@[simp] theorem State.setStack_draws (k : Vector Word 16) (n : Fin 17) : (s.setStack k n).draws = s.draws := rfl
@[simp] theorem State.setStack_oracleAnswers (k : Vector Word 16) (n : Fin 17) : (s.setStack k n).oracleAnswers = s.oracleAnswers := rfl

/-! ### drew -/

@[simp] theorem State.drew_v : (s.drew).v = s.v := rfl
@[simp] theorem State.drew_i : (s.drew).i = s.i := rfl
@[simp] theorem State.drew_pc : (s.drew).pc = s.pc := rfl
@[simp] theorem State.drew_sp : (s.drew).sp = s.sp := rfl
@[simp] theorem State.drew_stack : (s.drew).stack = s.stack := rfl
@[simp] theorem State.drew_dt : (s.drew).dt = s.dt := rfl
@[simp] theorem State.drew_st : (s.drew).st = s.st := rfl
@[simp] theorem State.drew_mem : (s.drew).mem = s.mem := rfl
@[simp] theorem State.drew_fb : (s.drew).fb = s.fb := rfl
@[simp] theorem State.drew_displayChanged : (s.drew).displayChanged = s.displayChanged := rfl
@[simp] theorem State.drew_clearRequested : (s.drew).clearRequested = s.clearRequested := rfl
@[simp] theorem State.drew_report : (s.drew).report = s.report := rfl
@[simp] theorem State.drew_halted : (s.drew).halted = s.halted := rfl
@[simp] theorem State.drew_faultMark : (s.drew).faultMark = s.faultMark := rfl
@[simp] theorem State.drew_draws : (s.drew).draws = s.draws + 1 := rfl
@[simp] theorem State.drew_oracleAnswers : (s.drew).oracleAnswers = s.oracleAnswers := rfl

/-! ### reportAs -/

@[simp] theorem State.reportAs_v (r : Report) : (s.reportAs r).v = s.v := rfl
@[simp] theorem State.reportAs_i (r : Report) : (s.reportAs r).i = s.i := rfl
@[simp] theorem State.reportAs_pc (r : Report) : (s.reportAs r).pc = s.pc := rfl
@[simp] theorem State.reportAs_sp (r : Report) : (s.reportAs r).sp = s.sp := rfl
@[simp] theorem State.reportAs_stack (r : Report) : (s.reportAs r).stack = s.stack := rfl
@[simp] theorem State.reportAs_dt (r : Report) : (s.reportAs r).dt = s.dt := rfl
@[simp] theorem State.reportAs_st (r : Report) : (s.reportAs r).st = s.st := rfl
@[simp] theorem State.reportAs_mem (r : Report) : (s.reportAs r).mem = s.mem := rfl
@[simp] theorem State.reportAs_fb (r : Report) : (s.reportAs r).fb = s.fb := rfl
@[simp] theorem State.reportAs_displayChanged (r : Report) : (s.reportAs r).displayChanged = s.displayChanged := rfl
@[simp] theorem State.reportAs_clearRequested (r : Report) : (s.reportAs r).clearRequested = s.clearRequested := rfl
@[simp] theorem State.reportAs_report (r : Report) : (s.reportAs r).report = r := rfl
@[simp] theorem State.reportAs_halted (r : Report) : (s.reportAs r).halted = s.halted := rfl
@[simp] theorem State.reportAs_faultMark (r : Report) : (s.reportAs r).faultMark = true := rfl
@[simp] theorem State.reportAs_draws (r : Report) : (s.reportAs r).draws = s.draws := rfl
@[simp] theorem State.reportAs_oracleAnswers (r : Report) : (s.reportAs r).oracleAnswers = s.oracleAnswers := rfl

/-! ### addressFault -/

@[simp] theorem State.addressFault_v (a : Nat) : (s.addressFault a).v = s.v := rfl
@[simp] theorem State.addressFault_i (a : Nat) : (s.addressFault a).i = s.i := rfl
@[simp] theorem State.addressFault_pc (a : Nat) : (s.addressFault a).pc = s.pc := rfl
@[simp] theorem State.addressFault_sp (a : Nat) : (s.addressFault a).sp = s.sp := rfl
@[simp] theorem State.addressFault_stack (a : Nat) : (s.addressFault a).stack = s.stack := rfl
@[simp] theorem State.addressFault_dt (a : Nat) : (s.addressFault a).dt = s.dt := rfl
@[simp] theorem State.addressFault_st (a : Nat) : (s.addressFault a).st = s.st := rfl
@[simp] theorem State.addressFault_mem (a : Nat) : (s.addressFault a).mem = s.mem := rfl
@[simp] theorem State.addressFault_fb (a : Nat) : (s.addressFault a).fb = s.fb := rfl
@[simp] theorem State.addressFault_displayChanged (a : Nat) : (s.addressFault a).displayChanged = s.displayChanged := rfl
@[simp] theorem State.addressFault_clearRequested (a : Nat) : (s.addressFault a).clearRequested = s.clearRequested := rfl
@[simp] theorem State.addressFault_report (a : Nat) : (s.addressFault a).report = .addressFault a := rfl
@[simp] theorem State.addressFault_halted (a : Nat) : (s.addressFault a).halted = true := rfl
@[simp] theorem State.addressFault_faultMark (a : Nat) : (s.addressFault a).faultMark = true := rfl
@[simp] theorem State.addressFault_draws (a : Nat) : (s.addressFault a).draws = s.draws := rfl
@[simp] theorem State.addressFault_oracleAnswers (a : Nat) : (s.addressFault a).oracleAnswers = s.oracleAnswers := rfl

/-! ### beginCycle -/

@[simp] theorem State.beginCycle_v : (s.beginCycle).v = s.v := rfl
@[simp] theorem State.beginCycle_i : (s.beginCycle).i = s.i := rfl
@[simp] theorem State.beginCycle_pc : (s.beginCycle).pc = s.pc := rfl
@[simp] theorem State.beginCycle_sp : (s.beginCycle).sp = s.sp := rfl
@[simp] theorem State.beginCycle_stack : (s.beginCycle).stack = s.stack := rfl
@[simp] theorem State.beginCycle_dt : (s.beginCycle).dt = s.dt := rfl
@[simp] theorem State.beginCycle_st : (s.beginCycle).st = s.st := rfl
@[simp] theorem State.beginCycle_mem : (s.beginCycle).mem = s.mem := rfl
@[simp] theorem State.beginCycle_fb : (s.beginCycle).fb = s.fb := rfl
@[simp] theorem State.beginCycle_displayChanged : (s.beginCycle).displayChanged = false := rfl
@[simp] theorem State.beginCycle_clearRequested : (s.beginCycle).clearRequested = false := rfl
@[simp] theorem State.beginCycle_report : (s.beginCycle).report = .none := rfl
@[simp] theorem State.beginCycle_halted : (s.beginCycle).halted = s.halted := rfl
@[simp] theorem State.beginCycle_faultMark : (s.beginCycle).faultMark = s.faultMark := rfl
@[simp] theorem State.beginCycle_draws : (s.beginCycle).draws = s.draws := rfl
@[simp] theorem State.beginCycle_oracleAnswers : (s.beginCycle).oracleAnswers = s.oracleAnswers := rfl

/-! ### tick -/

@[simp] theorem State.tick_v : (s.tick).v = s.v := rfl
@[simp] theorem State.tick_i : (s.tick).i = s.i := rfl
@[simp] theorem State.tick_pc : (s.tick).pc = s.pc := rfl
@[simp] theorem State.tick_sp : (s.tick).sp = s.sp := rfl
@[simp] theorem State.tick_stack : (s.tick).stack = s.stack := rfl
@[simp] theorem State.tick_dt : (s.tick).dt = (if s.dt = 0 then 0 else s.dt - 1) := rfl
@[simp] theorem State.tick_st : (s.tick).st = (if s.st = 0 then 0 else s.st - 1) := rfl
@[simp] theorem State.tick_mem : (s.tick).mem = s.mem := rfl
@[simp] theorem State.tick_fb : (s.tick).fb = s.fb := rfl
@[simp] theorem State.tick_displayChanged : (s.tick).displayChanged = s.displayChanged := rfl
@[simp] theorem State.tick_clearRequested : (s.tick).clearRequested = s.clearRequested := rfl
@[simp] theorem State.tick_report : (s.tick).report = s.report := rfl
@[simp] theorem State.tick_halted : (s.tick).halted = s.halted := rfl
@[simp] theorem State.tick_faultMark : (s.tick).faultMark = s.faultMark := rfl
@[simp] theorem State.tick_draws : (s.tick).draws = s.draws := rfl
@[simp] theorem State.tick_oracleAnswers : (s.tick).oracleAnswers = s.oracleAnswers := rfl

/-! ### Reading a register -/

/-- A register read after a register write: the value written, or what was there. -/
theorem State.readV_writeV (x r : Reg) (b : Byte) :
    (s.writeV x b).readV r = if r = x then b else s.readV r := by
  have h : (r = x) = (x.toNat = r.toNat) := by rw [BitVec.toNat_inj]; exact propext eq_comm
  simp only [State.readV, State.writeV_v, Vector.getElem_set, h]

@[simp] theorem State.readV_writeV_self (x : Reg) (b : Byte) : (s.writeV x b).readV x = b := by
  simp [State.readV_writeV]

theorem State.readV_writeV_ne {x r : Reg} (b : Byte) (h : r ≠ x) : (s.writeV x b).readV r = s.readV r := by
  simp [State.readV_writeV, h]

/-- The read depends on the register file alone. -/
theorem State.readV_congr {s t : State} (h : t.v = s.v) (r : Reg) : t.readV r = s.readV r := by
  simp [State.readV, h]

@[simp] theorem State.readV_setI (a : Word) (r : Reg) : (s.setI a).readV r = s.readV r := rfl
@[simp] theorem State.readV_setPc (a : Word) (r : Reg) : (s.setPc a).readV r = s.readV r := rfl
@[simp] theorem State.readV_dispose (d : Disposition) (r : Reg) : (s.dispose d).readV r = s.readV r := rfl
@[simp] theorem State.readV_setDt (b : Byte) (r : Reg) : (s.setDt b).readV r = s.readV r := rfl
@[simp] theorem State.readV_setSt (b : Byte) (r : Reg) : (s.setSt b).readV r = s.readV r := rfl
@[simp] theorem State.readV_setMem (m : Memory) (r : Reg) : (s.setMem m).readV r = s.readV r := rfl
@[simp] theorem State.readV_storeAtI (bs : List Byte) (r : Reg) : (s.storeAtI bs).readV r = s.readV r := rfl
@[simp] theorem State.readV_drawn (f : Frame) (r : Reg) : (s.drawn f).readV r = s.readV r := rfl
@[simp] theorem State.readV_cleared (r : Reg) : (s.cleared).readV r = s.readV r := rfl
@[simp] theorem State.readV_setStack (k : Vector Word 16) (n : Fin 17) (r : Reg) : (s.setStack k n).readV r = s.readV r := rfl
@[simp] theorem State.readV_drew (r : Reg) : (s.drew).readV r = s.readV r := rfl
@[simp] theorem State.readV_reportAs (q : Report) (r : Reg) : (s.reportAs q).readV r = s.readV r := rfl
@[simp] theorem State.readV_addressFault (a : Nat) (r : Reg) : (s.addressFault a).readV r = s.readV r := rfl
@[simp] theorem State.readV_beginCycle (r : Reg) : (s.beginCycle).readV r = s.readV r := rfl
@[simp] theorem State.readV_tick (r : Reg) : (s.tick).readV r = s.readV r := rfl

/-- A register after a block load: loaded from memory up to Vx, unchanged above (R188). -/
@[simp] theorem State.readV_loadedBlock (x r : Reg) :
    (s.setRegs (s.loadedBlock x)).readV r =
      if r.toNat < blockLen x then s.mem.read (s.i.toNat + r.toNat) else s.readV r := by
  simp [State.readV, State.loadedBlock]

end Sys2Proof.Machine
end

