-- ==== Sys2Proof/Laws/Frame.lean ====
section
/-! SUPPORT. Frames compose: what each update leaves unchanged, and the steps that put two frames together. -/

namespace Sys2Proof.Machine

theorem Part.Same.trans {s t u : State} {p : Part} (h1 : p.Same s t) (h2 : p.Same t u) : p.Same s u := by
  cases p <;> simp only [Part.Same] at * <;> simp_all

theorem unchanged_refl (l : List Part) (s : State) : UnchangedExcept l s s := by
  intro p _
  cases p <;> simp [Part.Same]

/-- Two changes one after the other: the parts that neither changes are unchanged. -/
theorem unchanged_trans {l : List Part} {s t u : State} (h1 : UnchangedExcept l s t) (h2 : UnchangedExcept l t u) :
    UnchangedExcept l s u := fun p hp => (h1 p hp).trans (h2 p hp)

theorem unchanged_mono {l l' : List Part} {s t : State} (hl : l ⊆ l') (h : UnchangedExcept l s t) : UnchangedExcept l' s t :=
  fun p hp => h p fun hm => hp (hl hm)

/-- A change after which a further update, of its own listed parts, follows. -/
theorem unchanged_then {l l' : List Part} {s t u : State} (h2 : UnchangedExcept l' t u) (hl : l' ⊆ l)
    (h1 : UnchangedExcept l s t) : UnchangedExcept l s u := unchanged_trans h1 (unchanged_mono hl h2)

variable (s : State)

theorem unchanged_writeV (x : Reg) (b : Byte) : UnchangedExcept [.regs] s (s.writeV x b) := by
  intro p hp
  cases p <;> simp_all [Part.Same, State.pixel]

theorem unchanged_setRegs (v : Vector Byte 16) : UnchangedExcept [.regs] s (s.setRegs v) := by
  intro p hp
  cases p <;> simp_all [Part.Same, State.pixel]

theorem unchanged_setI (a : Word) : UnchangedExcept [.index] s (s.setI a) := by
  intro p hp
  cases p <;> simp_all [Part.Same, State.pixel]

theorem unchanged_setPc (a : Word) : UnchangedExcept [.pc] s (s.setPc a) := by
  intro p hp
  cases p <;> simp_all [Part.Same, State.pixel]

theorem unchanged_dispose (d : Disposition) : UnchangedExcept [.pc] s (s.dispose d) := by
  intro p hp
  cases p <;> simp_all [Part.Same, State.pixel]

theorem unchanged_setDt (b : Byte) : UnchangedExcept [.dt] s (s.setDt b) := by
  intro p hp
  cases p <;> simp_all [Part.Same, State.pixel]

theorem unchanged_setSt (b : Byte) : UnchangedExcept [.st] s (s.setSt b) := by
  intro p hp
  cases p <;> simp_all [Part.Same, State.pixel]

theorem unchanged_setMem (m : Memory) : UnchangedExcept [.mem] s (s.setMem m) := by
  intro p hp
  cases p <;> simp_all [Part.Same, State.pixel]

theorem unchanged_storeAtI (bs : List Byte) : UnchangedExcept [.mem] s (s.storeAtI bs) := by
  intro p hp
  cases p <;> simp_all [Part.Same, State.pixel]

theorem unchanged_drawn (f : Frame) : UnchangedExcept [.fb, .display] s (s.drawn f) := by
  intro p hp
  cases p <;> simp_all [Part.Same]

theorem unchanged_cleared : UnchangedExcept [.fb, .clear] s (s.cleared) := by
  intro p hp
  cases p <;> simp_all [Part.Same]

theorem unchanged_setStack (k : Vector Word 16) (n : Fin 17) : UnchangedExcept [.stack, .sp] s (s.setStack k n) := by
  intro p hp
  cases p <;> simp_all [Part.Same, State.pixel]

theorem unchanged_drew : UnchangedExcept [.draws] s (s.drew) := by
  intro p hp
  cases p <;> simp_all [Part.Same, State.pixel]

theorem unchanged_reportAs (r : Report) : UnchangedExcept [.report, .mark] s (s.reportAs r) := by
  intro p hp
  cases p <;> simp_all [Part.Same, State.pixel]

theorem unchanged_addressFault (a : Nat) : UnchangedExcept [.report, .mark, .halted] s (s.addressFault a) := by
  intro p hp
  cases p <;> simp_all [Part.Same, State.pixel]

theorem unchanged_beginCycle : UnchangedExcept [.display, .clear, .report] s (s.beginCycle) := by
  intro p hp
  cases p <;> simp_all [Part.Same, State.pixel]

theorem unchanged_tick : UnchangedExcept [.dt, .st] s (s.tick) := by
  intro p hp
  cases p <;> simp_all [Part.Same, State.pixel]

theorem unchanged_oracleMove (b : Bool) : UnchangedExcept [.oracle] s (oracleMove b s) := by
  intro p hp
  cases p <;> simp_all [Part.Same, State.pixel, oracleMove, State.readV]

theorem regsUnchanged_writeV (x : Reg) (b : Byte) : RegsUnchangedExcept (· = x) s (s.writeV x b) :=
  fun _ h => State.readV_writeV_ne s b h

/-- Two changes of registers one after the other. -/
theorem regsUnchanged_trans {P : Reg → Prop} {s t u : State} (h1 : RegsUnchangedExcept P s t) (h2 : RegsUnchangedExcept P t u) :
    RegsUnchangedExcept P s u := fun r hr => (h2 r hr).trans (h1 r hr)

end Sys2Proof.Machine
end

