-- ==== Sys2Proof/Laws/Ops.lean ====
section
/-! SUPPORT. What each shared operation can do, said once: the range check, the stack, the key skip, the fetch, the cycle. -/

namespace Sys2Proof.Machine

/-- The range check as a proposition on numbers. -/
theorem rangeOk_iff (s : State) (len : Nat) : s.rangeOk len = true ↔ len = 0 ∨ s.i.toNat + len ≤ 4096 := by
  simp [State.rangeOk]

theorem withRange_of_ok {s : State} {len : Nat} (after : State) (h : len = 0 ∨ s.i.toNat + len ≤ 4096) :
    withRange s len after = .next after := by
  rw [withRange, if_pos ((rangeOk_iff s len).2 h)]

theorem withRange_of_out {s : State} {len : Nat} (after : State) (h : ¬(len = 0 ∨ s.i.toNat + len ≤ 4096)) :
    withRange s len after = .next (s.addressFault (max s.i.toNat 0x1000)) := by
  rw [withRange, if_neg (by rw [rangeOk_iff]; exact h), raiseAddressFault]

/-- A ranged access answers a next state always: the instruction's, or that of the address fault. -/
theorem withRange_next {s t : State} {len : Nat} {after : State} (h : withRange s len after = .next t) :
    ((len = 0 ∨ s.i.toNat + len ≤ 4096) ∧ t = after) ∨
      (¬(len = 0 ∨ s.i.toNat + len ≤ 4096) ∧ t = s.addressFault (max s.i.toNat 0x1000)) := by
  by_cases hr : len = 0 ∨ s.i.toNat + len ≤ 4096
  · rw [withRange_of_ok _ hr] at h; exact .inl ⟨hr, by injection h with h; exact h.symm⟩
  · rw [withRange_of_out _ hr] at h; exact .inr ⟨hr, by injection h with h; exact h.symm⟩

/-- A push with room: the entry written, the count one more, PC the target. -/
theorem pushAndJump_of_lt {s : State} (ret target : Word) (h : s.sp.val < 16) :
    pushAndJump ret target s =
      (s.setStack (s.stack.set s.sp.val ret h) ⟨s.sp.val + 1, Nat.succ_lt_succ h⟩).setPc target := by
  rw [pushAndJump, dif_pos h]; rfl

theorem pushAndJump_of_full {s : State} (ret target : Word) (h : s.sp.val = 16) :
    pushAndJump ret target s = reportedNoOp (.stackOverflow s.pc) s := by
  rw [pushAndJump, dif_neg (by omega)]

/-- A pop with an entry: the count one less, PC the entry. -/
theorem popAndJump_of_pos {s : State} (h : 0 < s.sp.val) :
    popAndJump s =
      (s.setStack s.stack ⟨s.sp.val - 1, Nat.lt_of_le_of_lt (Nat.sub_le ..) s.sp.isLt⟩).setPc
        (s.stack[s.sp.val - 1]'(by have := s.sp.isLt; omega)) := by
  rw [popAndJump, dif_neg (by omega)]; rfl

theorem popAndJump_of_empty {s : State} (h : s.sp.val = 0) :
    popAndJump s = reportedNoOp (.stackUnderflow s.pc) s := by
  rw [popAndJump, dif_pos h]

/-- A key skip on a logical key: one answer taken, PC by the answer. -/
theorem skipOnKey_of_le {s : State} (want : Bool) {x : Reg} (h : (s.readV x).toNat ≤ 0x0F) :
    skipOnKey want x s = s.drew.dispose (skipIf (keyAnswer s x == want)) := by
  rw [skipOnKey, if_neg (by omega)]

theorem skipOnKey_of_gt {s : State} (want : Bool) {x : Reg} (h : 0x0F < (s.readV x).toNat) :
    skipOnKey want x s = reportedNoOp (.keyRange (s.readV x) s.pc) s := by
  rw [skipOnKey, if_pos h]

theorem fetch_of_le {s : State} (h : s.pc.toNat ≤ 0x0FFE) : fetch s = some (s.mem.readWord s.pc.toNat) := if_pos h

theorem fetch_of_gt {s : State} (h : 0x0FFE < s.pc.toNat) : fetch s = none := if_neg (by simp; omega)

/-- One below, or 0, is what the tick leaves (R214). -/
theorem toNat_tick (b : Byte) : (if b = 0 then 0 else b - 1 : Byte).toNat = b.toNat - 1 := by
  split
  · next h => simp [h]
  · next h =>
    have h0 : b.toNat ≠ 0 := fun e => h (BitVec.eq_of_toNat_eq e)
    have := b.isLt
    rw [BitVec.toNat_sub_of_le]
    · rfl
    · rw [BitVec.le_def]; simp; omega

/-- A step of a halted core (R209). -/
theorem step_of_halted {s : State} (h : s.halted = true) : step s = .next (haltedCycle s.beginCycle) := by
  rw [step, if_pos (by simpa using h)]

/-- A step of a running core with nothing to fetch (R91). -/
theorem step_of_unfetchable {s : State} (h : s.halted = false) (hp : 0x0FFE < s.pc.toNat) :
    step s = .next (s.beginCycle.addressFault (max s.pc.toNat 0x1000)) := by
  rw [step, if_neg (by simp [h]), runCycle, fetch_of_gt (by simpa using hp)]; rfl

/-- A step of a running core on an INVALID word (R104). -/
theorem step_of_invalid {s : State} (h : s.halted = false) (hp : s.pc.toNat ≤ 0x0FFE)
    (hd : decodeWord (s.mem.readWord s.pc.toNat) = none) :
    step s = .next (invalidOpcode (s.mem.readWord s.pc.toNat) s.beginCycle).tick := by
  rw [step, if_neg (by simp [h]), runCycle, fetch_of_le (by simpa using hp)]
  simp only [State.beginCycle_mem, State.beginCycle_pc, hd, finishCycle, State.endCycle, invalidOpcode, reportedNoOp,
    State.dispose_halted, State.reportAs_halted, State.beginCycle_halted, h]
  rfl

/-- A step of a running core on an instruction (R90). -/
theorem step_of_instr {s : State} {i : Instr} (h : s.halted = false) (hp : s.pc.toNat ≤ 0x0FFE)
    (hd : decodeWord (s.mem.readWord s.pc.toNat) = some i) : step s = finishCycle (exec i s.beginCycle) := by
  rw [step, if_neg (by simp [h]), runCycle, fetch_of_le (by simpa using hp)]
  simp only [State.beginCycle_mem, State.beginCycle_pc, hd]

/-- Everything a step that answers can have done: held a halted core, failed to fetch, run an INVALID word, or run an
instruction. -/
theorem step_cases {s u : State} (h : step s = .next u) :
    (s.halted = true ∧ u = haltedCycle s.beginCycle) ∨
    (s.halted = false ∧ 0x0FFE < s.pc.toNat ∧ u = s.beginCycle.addressFault (max s.pc.toNat 0x1000)) ∨
    (s.halted = false ∧ s.pc.toNat ≤ 0x0FFE ∧ decodeWord (s.mem.readWord s.pc.toNat) = none ∧
      u = (invalidOpcode (s.mem.readWord s.pc.toNat) s.beginCycle).tick) ∨
    (s.halted = false ∧ s.pc.toNat ≤ 0x0FFE ∧
      ∃ i t, decodeWord (s.mem.readWord s.pc.toNat) = some i ∧ exec i s.beginCycle = .next t ∧ u = t.endCycle) := by
  by_cases hh : s.halted = true
  · rw [step_of_halted hh] at h; injection h with h; exact .inl ⟨hh, h.symm⟩
  · replace hh : s.halted = false := by simpa using hh
    by_cases hp : s.pc.toNat ≤ 0x0FFE
    · cases hd : decodeWord (s.mem.readWord s.pc.toNat) with
      | none =>
        rw [step_of_invalid hh hp hd] at h; injection h with h
        exact .inr (.inr (.inl ⟨hh, hp, rfl, h.symm⟩))
      | some i =>
        rw [step_of_instr hh hp hd] at h
        refine .inr (.inr (.inr ⟨hh, hp, i, ?_⟩))
        cases he : exec i s.beginCycle with
        | next t => rw [he] at h; injection h with h; exact ⟨t, rfl, rfl, h.symm⟩
        | fault f => rw [he] at h; cases h
        | refused r => rw [he] at h; cases h
    · rw [step_of_unfetchable hh (by omega)] at h; injection h with h
      exact .inr (.inl ⟨hh, by omega, h.symm⟩)

end Sys2Proof.Machine
end

