-- ==== Sys2Proof/Laws/PerInstr.lean ====
section
/-! SUPPORT. Statements for all instructions, one lemma per constructor. `EncodedWordMatches`: the word the encoder gives an
instruction is matched by a row of the opcode map (spec/30_encoding.md R97, R98). -/

namespace Sys2Proof.Laws.EncodedWordMatches

/-- The word of the instruction satisfies some row of the opcode map. -/
def Statement (i : Instr) : Prop := wordWf (encode i) = true

theorem of_row {w : Word} (r : OpRow) (hr : r ∈ opcodeMap) (h : w &&& r.mask = r.bits) : wordWf w = true :=
  List.any_eq_true.2 ⟨r, hr, by simpa [OpRow.matches] using h⟩

theorem of_fam {w : Word} (f : BitVec 4) (hr : ⟨0xF000#16, formatNNN f 0#12⟩ ∈ opcodeMap) (h : famOf w = f) : wordWf w = true :=
  of_row _ hr ((mask_fam w f).2 h)

theorem of_n {w : Word} (f n : BitVec 4) (hr : ⟨0xF00F#16, formatXYN f 0#4 0#4 n⟩ ∈ opcodeMap) (h : famOf w = f ∧ nOf w = n) :
    wordWf w = true := of_row _ hr ((mask_fam_n w f n).2 h)

theorem of_kk {w : Word} (f : BitVec 4) (kk : Byte) (hr : ⟨0xF0FF#16, formatXKK f 0#4 kk⟩ ∈ opcodeMap)
    (h : famOf w = f ∧ kkOf w = kk) : wordWf w = true := of_row _ hr ((mask_fam_kk w f kk).2 h)

theorem cls : Statement .cls := by unfold Statement; decide

theorem ret : Statement .ret := by unfold Statement; decide

theorem jp (nnn : Addr12) : Statement (.jp nnn) := of_fam 0x1#4 (by decide) (famOf_formatNNN ..)

theorem call (nnn : Addr12) : Statement (.call nnn) := of_fam 0x2#4 (by decide) (famOf_formatNNN ..)

theorem seImm (x : Reg) (kk : Byte) : Statement (.seImm x kk) := of_fam 0x3#4 (by decide) (famOf_formatXKK ..)

theorem sneImm (x : Reg) (kk : Byte) : Statement (.sneImm x kk) := of_fam 0x4#4 (by decide) (famOf_formatXKK ..)

theorem seReg (x y : Reg) : Statement (.seReg x y) := of_n 0x5#4 0x0#4 (by decide) ⟨famOf_formatXYN .., nOf_formatXYN ..⟩

theorem ldImm (x : Reg) (kk : Byte) : Statement (.ldImm x kk) := of_fam 0x6#4 (by decide) (famOf_formatXKK ..)

theorem addImm (x : Reg) (kk : Byte) : Statement (.addImm x kk) := of_fam 0x7#4 (by decide) (famOf_formatXKK ..)

theorem ldReg (x y : Reg) : Statement (.ldReg x y) := of_n 0x8#4 0x0#4 (by decide) ⟨famOf_formatXYN .., nOf_formatXYN ..⟩

theorem orReg (x y : Reg) : Statement (.orReg x y) := of_n 0x8#4 0x1#4 (by decide) ⟨famOf_formatXYN .., nOf_formatXYN ..⟩

theorem andReg (x y : Reg) : Statement (.andReg x y) := of_n 0x8#4 0x2#4 (by decide) ⟨famOf_formatXYN .., nOf_formatXYN ..⟩

theorem xorReg (x y : Reg) : Statement (.xorReg x y) := of_n 0x8#4 0x3#4 (by decide) ⟨famOf_formatXYN .., nOf_formatXYN ..⟩

theorem addReg (x y : Reg) : Statement (.addReg x y) := of_n 0x8#4 0x4#4 (by decide) ⟨famOf_formatXYN .., nOf_formatXYN ..⟩

theorem sub (x y : Reg) : Statement (.sub x y) := of_n 0x8#4 0x5#4 (by decide) ⟨famOf_formatXYN .., nOf_formatXYN ..⟩

theorem shr (x y : Reg) : Statement (.shr x y) := of_n 0x8#4 0x6#4 (by decide) ⟨famOf_formatXYN .., nOf_formatXYN ..⟩

theorem subn (x y : Reg) : Statement (.subn x y) := of_n 0x8#4 0x7#4 (by decide) ⟨famOf_formatXYN .., nOf_formatXYN ..⟩

theorem shl (x y : Reg) : Statement (.shl x y) := of_n 0x8#4 0xE#4 (by decide) ⟨famOf_formatXYN .., nOf_formatXYN ..⟩

theorem sneReg (x y : Reg) : Statement (.sneReg x y) := of_n 0x9#4 0x0#4 (by decide) ⟨famOf_formatXYN .., nOf_formatXYN ..⟩

theorem ldI (nnn : Addr12) : Statement (.ldI nnn) := of_fam 0xA#4 (by decide) (famOf_formatNNN ..)

theorem jpV0 (nnn : Addr12) : Statement (.jpV0 nnn) := of_fam 0xB#4 (by decide) (famOf_formatNNN ..)

theorem rnd (x : Reg) (kk : Byte) : Statement (.rnd x kk) := of_fam 0xC#4 (by decide) (famOf_formatXKK ..)

theorem drw (x y : Reg) (n : BitVec 4) : Statement (.drw x y n) := of_fam 0xD#4 (by decide) (famOf_formatXYN ..)

theorem skp (x : Reg) : Statement (.skp x) := of_kk 0xE#4 0x9E#8 (by decide) ⟨famOf_formatXKK .., kkOf_formatXKK ..⟩

theorem sknp (x : Reg) : Statement (.sknp x) := of_kk 0xE#4 0xA1#8 (by decide) ⟨famOf_formatXKK .., kkOf_formatXKK ..⟩

theorem ldVxDt (x : Reg) : Statement (.ldVxDt x) := of_kk 0xF#4 0x07#8 (by decide) ⟨famOf_formatXKK .., kkOf_formatXKK ..⟩

theorem ldVxK (x : Reg) : Statement (.ldVxK x) := of_kk 0xF#4 0x0A#8 (by decide) ⟨famOf_formatXKK .., kkOf_formatXKK ..⟩

theorem ldDtVx (x : Reg) : Statement (.ldDtVx x) := of_kk 0xF#4 0x15#8 (by decide) ⟨famOf_formatXKK .., kkOf_formatXKK ..⟩

theorem ldStVx (x : Reg) : Statement (.ldStVx x) := of_kk 0xF#4 0x18#8 (by decide) ⟨famOf_formatXKK .., kkOf_formatXKK ..⟩

theorem addI (x : Reg) : Statement (.addI x) := of_kk 0xF#4 0x1E#8 (by decide) ⟨famOf_formatXKK .., kkOf_formatXKK ..⟩

theorem ldF (x : Reg) : Statement (.ldF x) := of_kk 0xF#4 0x29#8 (by decide) ⟨famOf_formatXKK .., kkOf_formatXKK ..⟩

theorem ldB (x : Reg) : Statement (.ldB x) := of_kk 0xF#4 0x33#8 (by decide) ⟨famOf_formatXKK .., kkOf_formatXKK ..⟩

theorem storeRegs (x : Reg) : Statement (.storeRegs x) := of_kk 0xF#4 0x55#8 (by decide) ⟨famOf_formatXKK .., kkOf_formatXKK ..⟩

theorem loadRegs (x : Reg) : Statement (.loadRegs x) := of_kk 0xF#4 0x65#8 (by decide) ⟨famOf_formatXKK .., kkOf_formatXKK ..⟩

end Sys2Proof.Laws.EncodedWordMatches
end

