-- ==== Sys2Proof/Machine/Asm.lean ====
section
/-! DEFINITION. The assembler text of an instruction, in the syntax of spec/30_encoding.md R98 and R108: registers `V0` to `VF`,
destination first, operands separated by a comma, `0x` hexadecimal immediates (two digits for `kk`, three for `nnn`), the
sprite height in decimal (log 18). It has no part in execution (spec/92_eei_decisions.md D15). -/

namespace Sys2Proof.Machine

/-- One hexadecimal digit, in capitals. -/
def hexDigit (d : Nat) : String :=
  ["0", "1", "2", "3", "4", "5", "6", "7", "8", "9", "A", "B", "C", "D", "E", "F"].getD d "?"

/-- `V0` to `VF` (R108). -/
def asmReg (x : Reg) : String := "V" ++ hexDigit x.toNat

/-- A `kk` immediate. -/
def asmByte (b : Byte) : String := "0x" ++ hexDigit (b.toNat / 16) ++ hexDigit (b.toNat % 16)

/-- An `nnn` address. -/
def asmAddr (a : Addr12) : String :=
  "0x" ++ hexDigit (a.toNat / 256) ++ hexDigit (a.toNat / 16 % 16) ++ hexDigit (a.toNat % 16)

/-- The sprite height in decimal, 0 to 15. -/
def asmCount (n : BitVec 4) : String :=
  if n.toNat < 10 then hexDigit n.toNat else "1" ++ hexDigit (n.toNat - 10)

/-- A mnemonic with two operands. -/
def asm2 (op a b : String) : String := op ++ " " ++ a ++ ", " ++ b

/-- SHR and SHL: one operand when the ignored `y` is 0, else the two-operand spelling that assembles that `y` (R99, R108). -/
def asmShift (op : String) (x y : Reg) : String :=
  if y = 0 then op ++ " " ++ asmReg x else asm2 op (asmReg x) (asmReg y)

/-- The assembler text of an instruction (R98, R108). -/
def asm : Instr → String
  | .cls => "CLS"
  | .ret => "RET"
  | .jp nnn => "JP " ++ asmAddr nnn
  | .call nnn => "CALL " ++ asmAddr nnn
  | .seImm x kk => asm2 "SE" (asmReg x) (asmByte kk)
  | .sneImm x kk => asm2 "SNE" (asmReg x) (asmByte kk)
  | .seReg x y => asm2 "SE" (asmReg x) (asmReg y)
  | .ldImm x kk => asm2 "LD" (asmReg x) (asmByte kk)
  | .addImm x kk => asm2 "ADD" (asmReg x) (asmByte kk)
  | .ldReg x y => asm2 "LD" (asmReg x) (asmReg y)
  | .orReg x y => asm2 "OR" (asmReg x) (asmReg y)
  | .andReg x y => asm2 "AND" (asmReg x) (asmReg y)
  | .xorReg x y => asm2 "XOR" (asmReg x) (asmReg y)
  | .addReg x y => asm2 "ADD" (asmReg x) (asmReg y)
  | .sub x y => asm2 "SUB" (asmReg x) (asmReg y)
  | .shr x y => asmShift "SHR" x y
  | .subn x y => asm2 "SUBN" (asmReg x) (asmReg y)
  | .shl x y => asmShift "SHL" x y
  | .sneReg x y => asm2 "SNE" (asmReg x) (asmReg y)
  | .ldI nnn => asm2 "LD" "I" (asmAddr nnn)
  | .jpV0 nnn => asm2 "JP" "V0" (asmAddr nnn)
  | .rnd x kk => asm2 "RND" (asmReg x) (asmByte kk)
  | .drw x y n => asm2 "DRW" (asmReg x) (asmReg y) ++ ", " ++ asmCount n
  | .skp x => "SKP " ++ asmReg x
  | .sknp x => "SKNP " ++ asmReg x
  | .ldVxDt x => asm2 "LD" (asmReg x) "DT"
  | .ldVxK x => asm2 "LD" (asmReg x) "K"
  | .ldDtVx x => asm2 "LD" "DT" (asmReg x)
  | .ldStVx x => asm2 "LD" "ST" (asmReg x)
  | .addI x => asm2 "ADD" "I" (asmReg x)
  | .ldF x => asm2 "LD" "F" (asmReg x)
  | .ldB x => asm2 "LD" "B" (asmReg x)
  | .storeRegs x => asm2 "LD" "[I]" (asmReg x)
  | .loadRegs x => asm2 "LD" (asmReg x) "[I]"

end Sys2Proof.Machine
end

