-- ==== Sys2Proof/Tests/Slice0.lean ====
section
/-! SUPPORT. The model's own tests. The words and the expected results are those of spec/95_test_vectors.md (the vectors of Part
1 and Part 2) and of the encodings of spec/30_encoding.md, written out by hand; no expected value comes from the model. The
`witness_` theorems show, for each statement of Certificates/Slice0/Obligations.lean that has hypotheses, a concrete state and
operands that meet them, at the ends of the range where there is one. -/

namespace Sys2Proof.Tests

open Sys2Proof.Machine

set_option Elab.async false

/-- A Step from the state with the word placed at PC answers a next state that passes the check. -/
def ran (w : Nat) (s : State) (check : State → Bool) : Bool :=
  match step (s.withFetchWord 16 w) with
  | .next t => check t
  | _ => false

/-- `exec` answers a next state that passes the check. -/
def execd (i : Instr) (s : State) (check : State → Bool) : Bool :=
  match exec i s with
  | .next t => check t
  | _ => false

/-- The state after reset with values in registers. -/
def withRegs (l : List (Reg × Byte)) : State := l.foldl (fun s r => s.writeV r.1 r.2) State.reset

/-- The state with bytes stored from an address. -/
def put (a : Nat) (bs : List Byte) (s : State) : State := s.setMem (s.mem.writeList a bs)

/-- The state with one pixel on. -/
def lit (r : Fin 32) (c : Fin 64) (s : State) : State := { s with fb := s.fb.set r (s.fb[r].set c true) }

/-- How many pixels are on. -/
def litCount (s : State) : Nat := (s.fb.toList.map fun row => row.toList.count true).sum

/-! ### Decoding: every instruction, from a word written out from its encoding -/

theorem test_decode_cls : decodeWord 0x00E0#16 = some .cls := by decide

theorem test_decode_ret : decodeWord 0x00EE#16 = some .ret := by decide

theorem test_decode_jp : decodeWord 0x1234#16 = some (.jp 0x234#12) := by decide

theorem test_decode_call : decodeWord 0x2ABC#16 = some (.call 0xABC#12) := by decide

theorem test_decode_se_imm : decodeWord 0x332A#16 = some (.seImm 3#4 0x2A#8) := by decide

theorem test_decode_sne_imm : decodeWord 0x4A07#16 = some (.sneImm 10#4 0x07#8) := by decide

theorem test_decode_se_reg : decodeWord 0x5120#16 = some (.seReg 1#4 2#4) := by decide

theorem test_decode_ld_imm : decodeWord 0x6FAB#16 = some (.ldImm 15#4 0xAB#8) := by decide

theorem test_decode_add_imm : decodeWord 0x7005#16 = some (.addImm 0#4 0x05#8) := by decide

theorem test_decode_ld_reg : decodeWord 0x8120#16 = some (.ldReg 1#4 2#4) := by decide

theorem test_decode_or : decodeWord 0x8121#16 = some (.orReg 1#4 2#4) := by decide

theorem test_decode_and : decodeWord 0x8F32#16 = some (.andReg 15#4 3#4) := by decide

theorem test_decode_xor : decodeWord 0x8453#16 = some (.xorReg 4#4 5#4) := by decide

theorem test_decode_add_reg : decodeWord 0x8124#16 = some (.addReg 1#4 2#4) := by decide

theorem test_decode_sub : decodeWord 0x86F5#16 = some (.sub 6#4 15#4) := by decide

theorem test_decode_shr : decodeWord 0x81A6#16 = some (.shr 1#4 10#4) := by decide

theorem test_decode_subn : decodeWord 0x8127#16 = some (.subn 1#4 2#4) := by decide

theorem test_decode_shl : decodeWord 0x810E#16 = some (.shl 1#4 0#4) := by decide

theorem test_decode_sne_reg : decodeWord 0x9120#16 = some (.sneReg 1#4 2#4) := by decide

theorem test_decode_ld_i : decodeWord 0xA2F0#16 = some (.ldI 0x2F0#12) := by decide

theorem test_decode_jp_v0 : decodeWord 0xBFFF#16 = some (.jpV0 0xFFF#12) := by decide

theorem test_decode_rnd : decodeWord 0xC10F#16 = some (.rnd 1#4 0x0F#8) := by decide

theorem test_decode_drw : decodeWord 0xD125#16 = some (.drw 1#4 2#4 5#4) := by decide

theorem test_decode_skp : decodeWord 0xE29E#16 = some (.skp 2#4) := by decide

theorem test_decode_sknp : decodeWord 0xE2A1#16 = some (.sknp 2#4) := by decide

theorem test_decode_ld_vx_dt : decodeWord 0xF107#16 = some (.ldVxDt 1#4) := by decide

theorem test_decode_ld_vx_k : decodeWord 0xF30A#16 = some (.ldVxK 3#4) := by decide

theorem test_decode_ld_dt_vx : decodeWord 0xF115#16 = some (.ldDtVx 1#4) := by decide

theorem test_decode_ld_st_vx : decodeWord 0xF118#16 = some (.ldStVx 1#4) := by decide

theorem test_decode_add_i : decodeWord 0xF21E#16 = some (.addI 2#4) := by decide

theorem test_decode_ld_f : decodeWord 0xF429#16 = some (.ldF 4#4) := by decide

theorem test_decode_ld_b : decodeWord 0xF133#16 = some (.ldB 1#4) := by decide

theorem test_decode_store_regs : decodeWord 0xF255#16 = some (.storeRegs 2#4) := by decide

theorem test_decode_load_regs : decodeWord 0xFF65#16 = some (.loadRegs 15#4) := by decide

/-- A word is big-endian (R63), and what follows it is left. -/
theorem test_decode_bytes : decode [0xD1#8, 0x25#8, 0xFF#8] = .ok (.drw 1#4 2#4 5#4, [0xFF#8]) := by rfl

theorem test_decode_truncated : decode [0xD1#8] = .error .truncated := by rfl

theorem test_decode_bytes_invalid : decode [0x51#8, 0x21#8] = .error (.invalidOpcode 0x5121#16) := by rfl

theorem test_decode_table_word :
    decodeTableWord 16 0xD125 = some (.drw 1#4 2#4 5#4) ∧ decodeTableWord 16 0x5121 = none := by decide

/-! ### Ill-formed words, one for each family's check, refused by name (R104) -/

theorem test_ill_formed_family_0 :
    ([0x0000#16, 0x0123#16, 0x00E1#16, 0x01E0#16, 0x0FFF#16].all fun w => !wordWf w && (decodeWord w).isNone) = true := by decide +kernel

theorem test_ill_formed_family_5 :
    ([0x5121#16, 0x512F#16].all fun w => !wordWf w && (decodeWord w).isNone) = true := by decide +kernel

theorem test_ill_formed_family_8 :
    ([0x8128#16, 0x8129#16, 0x812A#16, 0x812B#16, 0x812C#16, 0x812D#16, 0x812F#16].all fun w => !wordWf w && (decodeWord w).isNone) = true := by decide +kernel

theorem test_ill_formed_family_9 : ([0x9121#16].all fun w => !wordWf w && (decodeWord w).isNone) = true := by decide +kernel

theorem test_ill_formed_family_e :
    ([0xE29F#16, 0xE000#16, 0xE2A0#16].all fun w => !wordWf w && (decodeWord w).isNone) = true := by decide +kernel

theorem test_ill_formed_family_f :
    ([0xF100#16, 0xF1FF#16, 0xF175#16, 0xF101#16, 0xF166#16].all fun w => !wordWf w && (decodeWord w).isNone) = true := by decide +kernel

/-! ### Families 0x0 to 0x2 and 0xB -/

theorem test_cls :
    ran 0x00E0 (lit 0 0 (lit 31 63 State.reset)) (fun t => litCount t == 0 && t.clearRequested && !t.displayChanged && t.pc == 0x0202#16) = true := by decide +kernel

theorem test_ret :
    ran 0x00EE { State.reset with sp := 16, stack := State.reset.stack.set 15 0x0ABD#16 }
      (fun t => t.pc == 0x0ABD#16 && t.sp == 15 && t.stack[15] == 0x0ABD#16) = true := by decide +kernel

theorem test_ret_empty :
    ran 0x00EE { State.reset with dt := 2 }
      (fun t => t.report == .stackUnderflow 0x0200#16 && t.sp == 0 && t.pc == 0x0202#16 && t.dt == 1) = true := by decide +kernel

theorem test_jp :
    ran 0x1200 { State.reset with st := 1 } (fun t => t.pc == 0x0200#16 && t.st == 0) = true := by decide +kernel

theorem test_call :
    ran 0x2300 { State.reset with sp := 15 }
      (fun t => t.stack[15] == 0x0202#16 && t.sp == 16 && t.pc == 0x0300#16) = true := by decide +kernel

theorem test_call_full :
    ran 0x2300 { State.reset with sp := 16, pc := 0x0400#16, dt := 2 }
      (fun t => t.report == .stackOverflow 0x0400#16 && t.sp == 16 && t.pc == 0x0402#16 && t.dt == 1) = true := by decide +kernel

theorem test_jp_v0 : ran 0xBFFF (withRegs [(0#4, 0xFF#8)]) (fun t => t.pc == 0x10FE#16) = true := by decide +kernel

/-! ### Families 0x3 to 0x7, 0x9, 0xA -/

theorem test_se_imm : ran 0x332A (withRegs [(3#4, 0x2A#8)]) (fun t => t.pc == 0x0204#16) = true := by decide +kernel

theorem test_se_imm_differs : ran 0x332A (withRegs [(3#4, 0x2B#8)]) (fun t => t.pc == 0x0202#16) = true := by decide +kernel

theorem test_sne_imm_equal : ran 0x432A (withRegs [(3#4, 0x2A#8)]) (fun t => t.pc == 0x0202#16) = true := by decide +kernel

theorem test_sne_imm : ran 0x432A (withRegs [(3#4, 0#8)]) (fun t => t.pc == 0x0204#16) = true := by decide +kernel

theorem test_se_reg : ran 0x5120 (withRegs [(1#4, 7#8), (2#4, 7#8)]) (fun t => t.pc == 0x0204#16) = true := by decide +kernel

theorem test_se_reg_differs :
    ran 0x5120 (withRegs [(1#4, 7#8), (2#4, 8#8)]) (fun t => t.pc == 0x0202#16) = true := by decide +kernel

theorem test_sne_reg :
    ran 0x9120 (withRegs [(1#4, 7#8), (2#4, 8#8)]) (fun t => t.pc == 0x0204#16) = true := by decide +kernel

theorem test_sne_reg_same : ran 0x9110 (withRegs [(1#4, 7#8)]) (fun t => t.pc == 0x0202#16) = true := by decide +kernel

theorem test_ld_imm :
    ran 0x6FAB State.reset (fun t => t.readV 15#4 == 0xAB#8 && t.pc == 0x0202#16) = true := by decide +kernel

theorem test_add_imm :
    ran 0x7005 (withRegs [(0#4, 0xFE#8), (15#4, 9#8)]) (fun t => t.readV 0#4 == 3#8 && t.readV 15#4 == 9#8) = true := by decide +kernel

theorem test_add_imm_vf : ran 0x7F01 (withRegs [(15#4, 0xFF#8)]) (fun t => t.readV 15#4 == 0#8) = true := by decide +kernel

theorem test_ld_i : ran 0xAFFF { State.reset with i := 0xFFFF#16 } (fun t => t.i == 0x0FFF#16) = true := by decide +kernel

/-! ### Family 0x8 -/

theorem test_ld_reg :
    ran 0x8120 (withRegs [(1#4, 0x11#8), (2#4, 0x22#8), (15#4, 0x07#8)])
      (fun t => t.readV 1#4 == 0x22#8 && t.readV 2#4 == 0x22#8 && t.readV 15#4 == 0x07#8) = true := by decide +kernel

theorem test_or :
    ran 0x8121 (withRegs [(1#4, 0xF0#8), (2#4, 0x0C#8), (15#4, 0x07#8)])
      (fun t => t.readV 1#4 == 0xFC#8 && t.readV 15#4 == 0x07#8) = true := by decide +kernel

theorem test_and :
    ran 0x8122 (withRegs [(1#4, 0xF0#8), (2#4, 0x3C#8), (15#4, 0x07#8)])
      (fun t => t.readV 1#4 == 0x30#8 && t.readV 15#4 == 0x07#8) = true := by decide +kernel

theorem test_xor :
    ran 0x8123 (withRegs [(1#4, 0xF0#8), (2#4, 0x3C#8), (15#4, 0x07#8)])
      (fun t => t.readV 1#4 == 0xCC#8 && t.readV 15#4 == 0x07#8) = true := by decide +kernel

theorem test_add_reg :
    ran 0x8124 (withRegs [(1#4, 0xF0#8), (2#4, 0x20#8)])
      (fun t => t.readV 1#4 == 0x10#8 && t.readV 15#4 == 0x01#8) = true := by decide +kernel

theorem test_add_reg_vf_dest :
    ran 0x8F24 (withRegs [(15#4, 0xF0#8), (2#4, 0x20#8)])
      (fun t => t.readV 15#4 == 0x01#8) = true := by decide +kernel

theorem test_sub_equal :
    ran 0x8125 (withRegs [(1#4, 0x05#8), (2#4, 0x05#8), (15#4, 0x01#8)])
      (fun t => t.readV 1#4 == 0x00#8 && t.readV 15#4 == 0x00#8) = true := by decide +kernel

theorem test_sub_vf_source :
    ran 0x81F5 (withRegs [(1#4, 0x09#8), (15#4, 0x03#8)])
      (fun t => t.readV 15#4 == 0x01#8 && t.readV 1#4 == 0x08#8) = true := by decide +kernel

theorem test_shr :
    ran 0x81A6 (withRegs [(1#4, 0x05#8), (10#4, 0xFF#8)])
      (fun t => t.readV 1#4 == 0x02#8 && t.readV 10#4 == 0xFF#8 && t.readV 15#4 == 0x01#8) = true := by decide +kernel

theorem test_shr_vf :
    ran 0x8F06 (withRegs [(15#4, 0xFF#8)])
      (fun t => t.readV 15#4 == 0x00#8) = true := by decide +kernel

theorem test_subn :
    ran 0x8127 (withRegs [(1#4, 0x07#8), (2#4, 0x05#8)])
      (fun t => t.readV 1#4 == 0xFE#8 && t.readV 15#4 == 0x00#8) = true := by decide +kernel

theorem test_subn_vf_dest :
    ran 0x8F27 (withRegs [(15#4, 0x03#8), (2#4, 0x09#8)])
      (fun t => t.readV 15#4 == 0x08#8) = true := by decide +kernel

theorem test_shl :
    ran 0x810E (withRegs [(1#4, 0x81#8)])
      (fun t => t.readV 1#4 == 0x02#8 && t.readV 15#4 == 0x01#8) = true := by decide +kernel

theorem test_shl_vf :
    ran 0x8F0E (withRegs [(15#4, 0x81#8)])
      (fun t => t.readV 15#4 == 0x02#8) = true := by decide +kernel

/-! ### RND: the byte is free, so the checks are those that hold whatever it is -/

/-- C100: V1 = 0 whatever the byte is. -/
theorem test_rnd_zero_mask :
    execd (.rnd 1#4 0#8) (withRegs [(1#4, 0x55#8)]) (fun t => t.readV 1#4 == 0#8) = true := by
  simp [execd, exec, execRnd, State.dispose]

/-- C1FF: V1 is the byte. -/
theorem test_rnd_full_mask :
    execd (.rnd 1#4 0xFF#8) State.reset (fun t => t.readV 1#4 == Config.randomByte 0) = true := by
  simp only [execd, exec, execRnd, State.dispose]
  have h : (0xFF#8 : Byte) &&& Config.randomByte 0 = Config.randomByte 0 := BitVec.allOnes_and
  simp only [beq_iff_eq, State.readV_setPc, State.readV_writeV_self]
  exact h

/-! ### DRW -/

/-- S8, with the default glyph of digit 0. -/
theorem test_drw_glyph :
    ran 0xD005 State.reset (fun t => litCount t == 14 && t.pixel 0 0 && t.pixel 1 3 && !t.pixel 1 1 && !t.pixel 0 4 &&
      t.pixel 4 3 && t.readV 15#4 == 0#8 && t.displayChanged && !t.clearRequested && t.pc == 0x0202#16) = true := by decide +kernel

theorem test_drw_collision :
    ran 0xD005 (lit 0 0 State.reset) (fun t => litCount t == 13 && !t.pixel 0 0 && t.readV 15#4 == 1#8) = true := by decide +kernel

/-- Only the corner pixel: nothing wraps past an edge. -/
theorem test_drw_clip :
    ran 0xD121 { put 0x300 [0xFF#8] (withRegs [(1#4, 63#8), (2#4, 31#8)]) with i := 0x300#16 }
      (fun t => litCount t == 1 && t.pixel 31 63) = true := by decide +kernel

theorem test_drw_origin_wraps :
    ran 0xD121 { put 0x300 [0xC0#8] (withRegs [(1#4, 70#8), (2#4, 255#8)]) with i := 0x300#16 }
      (fun t => litCount t == 2 && t.pixel 31 6 && t.pixel 31 7) = true := by decide +kernel

/-- The column is the old VF. -/
theorem test_drw_vf_origin :
    ran 0xDF11 { put 0x300 [0x80#8] (withRegs [(15#4, 10#8), (1#4, 2#8)]) with i := 0x300#16 }
      (fun t => litCount t == 1 && t.pixel 2 10 && t.readV 15#4 == 0#8) = true := by decide +kernel

theorem test_drw_no_rows :
    ran 0xD120 { withRegs [(15#4, 9#8)] with i := 0xFFFF#16 }
      (fun t => litCount t == 0 && t.readV 15#4 == 0#8 && t.displayChanged && t.report == .none) = true := by decide +kernel

/-- D8: the rows that would be clipped are checked too. -/
theorem test_drw_fault :
    ran 0xD12F { withRegs [(2#4, 31#8), (15#4, 9#8)] with i := 0x0FF8#16 }
      (fun t => t.report == .addressFault 0x1000 && t.halted && t.readV 15#4 == 9#8 && !t.displayChanged && t.pc == 0x0200#16) = true := by decide +kernel

/-! ### SKP, SKNP: the answer is free, so the checks are for each answer, and for a value that is no key -/

theorem test_skp :
    ∀ b : Bool, Config.keyPressed 0 0xA#4 = b →
      execd (.skp 2#4) (withRegs [(2#4, 0x0A#8)]) (fun t => t.pc == if b = true then 0x0204#16 else 0x0202#16) = true := by
  intro b h
  have hk : keyAnswer (withRegs [(2#4, 0x0A#8)]) 2#4 = b := h
  have he : exec (.skp 2#4) (withRegs [(2#4, 0x0A#8)]) =
      .next ((withRegs [(2#4, 0x0A#8)]).drew.dispose (skipIf (keyAnswer (withRegs [(2#4, 0x0A#8)]) 2#4 == true))) := rfl
  rw [execd, he, hk]
  cases b <;> rfl

theorem test_sknp :
    ∀ b : Bool, Config.keyPressed 0 0xA#4 = b →
      execd (.sknp 2#4) (withRegs [(2#4, 0x0A#8)]) (fun t => t.pc == if b = false then 0x0204#16 else 0x0202#16) = true := by
  intro b h
  have hk : keyAnswer (withRegs [(2#4, 0x0A#8)]) 2#4 = b := h
  have he : exec (.sknp 2#4) (withRegs [(2#4, 0x0A#8)]) =
      .next ((withRegs [(2#4, 0x0A#8)]).drew.dispose (skipIf (keyAnswer (withRegs [(2#4, 0x0A#8)]) 2#4 == false))) := rfl
  rw [execd, he, hk]
  cases b <;> rfl

theorem test_skp_no_key :
    ran 0xE29E (withRegs [(2#4, 0x10#8)]) (fun t => t.report == .keyRange 0x10#8 0x0200#16 && t.pc == 0x0202#16 && t.draws == 0) = true := by decide +kernel

theorem test_sknp_no_key :
    ran 0xE2A1 (withRegs [(2#4, 0x1A#8)]) (fun t => t.report == .keyRange 0x1A#8 0x0200#16 && t.pc == 0x0202#16) = true := by decide +kernel

/-! ### Family 0xF -/

theorem test_ld_vx_dt :
    ran 0xF107 { State.reset with dt := 5 } (fun t => t.readV 1#4 == 5#8 && t.dt == 4) = true := by decide +kernel

/-- One tick for the whole wait; which key is free. -/
theorem test_ld_vx_k :
    ran 0xF30A { State.reset with dt := 3, st := 1 } (fun t => t.dt == 2 && t.st == 0 && t.pc == 0x0202#16) = true := by decide +kernel

theorem test_ld_vx_k_silent :
    step (({ State.reset with oracleAnswers := false } : State).withFetchWord 16 0xF30A) = .fault .keyWaitUnanswered := by rfl

theorem test_ld_dt_vx : ran 0xF115 (withRegs [(1#4, 0x3C#8)]) (fun t => t.dt == 0x3B#8) = true := by decide +kernel

theorem test_ld_dt_vx_zero : ran 0xF115 { State.reset with dt := 9 } (fun t => t.dt == 0#8) = true := by decide +kernel

theorem test_ld_st_vx : ran 0xF118 (withRegs [(1#4, 2#8)]) (fun t => t.st == 1#8) = true := by decide +kernel

theorem test_add_i :
    ran 0xF21E { withRegs [(2#4, 1#8), (15#4, 7#8)] with i := 0x0FFF#16 }
      (fun t => t.i == 0x1000#16 && t.readV 15#4 == 7#8 && t.report == .none) = true := by decide +kernel

theorem test_add_i_wraps :
    ran 0xF21E { withRegs [(2#4, 2#8)] with i := 0xFFFF#16 } (fun t => t.i == 0x0001#16) = true := by decide +kernel

theorem test_ld_f : ran 0xF429 (withRegs [(4#4, 0xFF#8)]) (fun t => t.i == 0x04FB#16) = true := by decide +kernel

theorem test_ld_b :
    ran 0xF133 { withRegs [(1#4, 123#8)] with i := 0x0FFD#16 }
      (fun t => t.mem.readList 0xFFD 3 == [1#8, 2#8, 3#8] && t.report == .none) = true := by decide +kernel

theorem test_ld_b_fault :
    ran 0xF133 { withRegs [(1#4, 123#8)] with i := 0x0FFE#16 }
      (fun t => t.mem.readList 0xFFE 2 == [0#8, 0#8] && t.report == .addressFault 0x1000 && t.halted && t.pc == 0x0200#16) = true := by decide +kernel

theorem test_store_regs :
    ran 0xF255 { put 0x403 [0x99#8] (withRegs [(0#4, 0x11#8), (1#4, 0x22#8), (2#4, 0x33#8), (3#4, 0x44#8)]) with i := 0x0400#16 }
      (fun t => t.mem.readList 0x400 4 == [0x11#8, 0x22#8, 0x33#8, 0x99#8] && t.i == 0x0400#16) = true := by decide +kernel

theorem test_store_regs_fault :
    ran 0xFF55 { withRegs [(0#4, 0x5A#8)] with i := 0x0FF1#16 }
      (fun t => t.report == .addressFault 0x1000 && t.mem.read 0xFF1 == 0#8) = true := by decide +kernel

theorem test_load_regs :
    ran 0xF265 { put 0x400 [0xAA#8, 0xBB#8, 0xCC#8, 0xDD#8] (withRegs [(3#4, 0x99#8)]) with i := 0x0400#16 }
      (fun t => t.readV 0#4 == 0xAA#8 && t.readV 2#4 == 0xCC#8 && t.readV 3#4 == 0x99#8 && t.i == 0x0400#16) = true := by decide +kernel

/-- The default glyph table, read back. -/
theorem test_load_regs_glyph :
    ran 0xFF65 State.reset (fun t => t.v.toList == [0xF0#8, 0x90#8, 0x90#8, 0x90#8, 0xF0#8, 0x20#8, 0x60#8, 0x20#8, 0x20#8,
      0x70#8, 0xF0#8, 0x10#8, 0xF0#8, 0x80#8, 0xF0#8, 0xF0#8]) = true := by decide +kernel

/-! ### The cycle, the host -/

theorem test_invalid_word :
    ran 0x0FFF { State.reset with dt := 2 }
      (fun t => t.report == .invalidOpcode 0x0FFF#16 0x0200#16 && t.pc == 0x0202#16 && t.dt == 1 && !t.halted) = true := by decide +kernel

theorem test_odd_pc :
    ran 0x6A07 { State.reset with pc := 0x0201#16 } (fun t => t.readV 10#4 == 7#8 && t.pc == 0x0203#16) = true := by decide +kernel

theorem test_pc_0FFF :
    (match step { State.reset with pc := 0x0FFF#16, dt := 3 } with
      | .next t => t.report == .addressFault 0x1000 && t.halted && t.pc == 0x0FFF#16 && t.dt == 3 | _ => false) = true := by decide +kernel

theorem test_pc_10FE :
    (match step { State.reset with pc := 0x10FE#16 } with
      | .next t => t.report == .addressFault 0x10FE | _ => false) = true := by decide +kernel

theorem test_halted :
    (match step { State.reset with halted := true, dt := 3, displayChanged := true } with
      | .next t => t.report == .halted && !t.displayChanged && t.dt == 3 && t.pc == 0x0200#16 | _ => false) = true := by decide +kernel

theorem test_load :
    (hostLoad [0x12#8, 0x34#8] State.reset).mem.readList 0x1FF 4 = [0x00#8, 0x12#8, 0x34#8, 0x00#8] ∧
    (hostLoad [0x12#8, 0x34#8] State.reset).pc = 0x0200#16 := by decide +kernel

/-- S7: Reset, Load of `60 05`, one Step. -/
theorem test_boot_runs :
    (match step (boot [0x60#8, 0x05#8]) with | .next t => t.readV 0#4 == 5#8 && t.pc == 0x0202#16 | _ => false) = true := by decide +kernel

theorem test_boot_nothing_loaded :
    (match step State.reset with | .next t => t.report == .invalidOpcode 0#16 0x0200#16 && t.pc == 0x0202#16 | _ => false) = true := by decide +kernel

/-- Reset, with a `GLYPH` of its own, of a marked and halted core. -/
def restarted : State :=
  hostReset (Vector.replicate 80 0xAA#8) { State.reset with halted := true, faultMark := true, dt := 3, mem := [(0x200, 1#8)] }

theorem test_reset_of_halted :
    (!restarted.halted && restarted.dt == 0 && restarted.mem.readList 0x04F 2 == [0xAA#8, 0x00#8] && restarted.mem.read 0x200 == 0#8) = true := by decide +kernel

/-- R201: the mark is never cleared. -/
theorem test_reset_keeps_the_mark : restarted.faultMark = true := rfl

theorem test_fetch_word :
    ((State.reset.withFetchWord 16 0x6005).mem.readList 0x200 2 = [0x60#8, 0x05#8]) := by decide +kernel

theorem test_asm : asm (.ldImm 0#4 5#8) = "LD V0, 0x05" ∧ asm (.call 0x300#12) = "CALL 0x300" := by decide +kernel

/-! ### Witnesses: a state and operands that meet the hypotheses of each statement that has some -/

theorem witness_load_too_long : min (List.replicate 3585 (0#8)).length 3584 = 3584 := by
  rw [List.length_replicate]; rfl

theorem witness_load_empty : min ([] : List Byte).length 3584 = 0 := rfl

theorem witness_encode_of_decode : decodeWord 0xFF65#16 = some (.loadRegs 15#4) := by decide

theorem witness_ret : 0 < ({ State.reset with sp := 1 } : State).sp.val ∧ 0 < ({ State.reset with sp := 16 } : State).sp.val := by
  decide

theorem witness_ret_empty : State.reset.sp.val = 0 := rfl

/-- The last push that has room, for the two statements about CALL. -/
theorem witness_call : ({ State.reset with sp := 15 } : State).sp.val < 16 ∧ State.reset.sp.val < 16 := by decide

theorem witness_call_full : ({ State.reset with sp := 16 } : State).sp.val = 16 := rfl

/-- Both clauses of the skips on an immediate. -/
theorem witness_skip_immediate :
    ((withRegs [(15#4, 0xFF#8)]).readV 15#4).toNat = (0xFF#8).toNat ∧ (State.reset.readV 15#4).toNat ≠ (0xFF#8).toNat := by decide +kernel

/-- Words of family 0x5 with the low nibble at both ends of its forbidden range. -/
theorem witness_family_5_low_nibble :
    0x5121#16 &&& 0xF000#16 = 0x5000#16 ∧ 0x5121#16 &&& 0x000F#16 ≠ 0#16 ∧
    0x5FFF#16 &&& 0xF000#16 = 0x5000#16 ∧ 0x5FFF#16 &&& 0x000F#16 ≠ 0#16 := by decide

/-- Both clauses of the skips on registers. -/
theorem witness_skip_registers :
    (State.reset.readV 0#4).toNat = (State.reset.readV 15#4).toNat ∧
    ((withRegs [(15#4, 1#8)]).readV 0#4).toNat ≠ ((withRegs [(15#4, 1#8)]).readV 15#4).toNat := by decide +kernel

/-- The four forms of the ALU clauses: neither, the source, the destination, both are VF. -/
theorem witness_alu_forms :
    ((1#4 : Reg) ≠ 15#4 ∧ (2#4 : Reg) ≠ 15#4) ∧ ((14#4 : Reg) ≠ 15#4 ∧ (15#4 : Reg) = 15#4) := by decide

/-- The last sprite that lies in memory, and the empty sprite at any I. -/
theorem witness_draw :
    RangeInMemory { State.reset with i := 0x0FF1#16 } (15#4).toNat ∧ RangeInMemory { State.reset with i := 0xFFFF#16 } (0#4).toNat :=
  ⟨.inr (by decide), .inl rfl⟩

/-- A draw that collides and one that does not. -/
theorem witness_draw_collision : (lit 0 0 State.reset).collides 0#4 0#4 5 ∧ ¬State.reset.collides 0#4 0#4 5 := by
  refine ⟨⟨0, 0, by decide +kernel, by decide +kernel⟩, fun ⟨r, c, _, h⟩ => ?_⟩
  have e : State.reset.pixel r c = false := by simp [State.pixel, State.reset]
  rw [e] at h
  cases h

/-- Two draws with the same operand values, VF one of them. -/
theorem witness_draw_twice :
    execd (.drw 15#4 0#4 5#4) State.reset
      (fun t => t.readV 15#4 == State.reset.readV 15#4 && t.readV 0#4 == State.reset.readV 0#4) = true := by decide +kernel

/-- The largest logical key, and the smallest value that is none. -/
theorem witness_key : ((withRegs [(2#4, 0x0F#8)]).readV 2#4).toNat ≤ 0x0F ∧ 0x0F < ((withRegs [(2#4, 0x10#8)]).readV 2#4).toNat := by
  decide +kernel

/-- A key as a 4-bit number with the register's value; the answer for it is free, so each answer is one of the two clauses. -/
theorem witness_key_answer : (15#4 : BitVec 4).toNat = ((withRegs [(2#4, 0x0F#8)]).readV 2#4).toNat ∧
    (Config.keyPressed 0 15#4 = true ∨ Config.keyPressed 0 15#4 = false) :=
  ⟨by decide +kernel, (Bool.eq_false_or_eq_true _)⟩

/-- A running core that fetches the word placed at PC, at the last address from which two bytes can be fetched. -/
theorem witness_fetches_timers :
    Fetches (({ State.reset with pc := 0x0FFE#16 } : State).withFetchWord 16 0xF107) (.ldVxDt 1#4) ∧
    Fetches (State.reset.withFetchWord 16 0xF115) (.ldDtVx 1#4) ∧ Fetches (State.reset.withFetchWord 16 0xF118) (.ldStVx 1#4) :=
  ⟨⟨⟨rfl, by decide +kernel⟩, by decide +kernel⟩, ⟨⟨rfl, by decide +kernel⟩, by decide +kernel⟩,
    ⟨⟨rfl, by decide +kernel⟩, by decide +kernel⟩⟩

theorem witness_key_wait :
    (State.reset.withFetchWord 16 0xF30A).oracleAnswers = true ∧ Fetches (State.reset.withFetchWord 16 0xF30A) (.ldVxK 3#4) :=
  ⟨rfl, ⟨rfl, by decide +kernel⟩, by decide +kernel⟩

theorem witness_key_wait_silent :
    ((oracleMove false State.reset).withFetchWord 16 0xF30A).oracleAnswers = false ∧
    Fetches ((oracleMove false State.reset).withFetchWord 16 0xF30A) (.ldVxK 3#4) :=
  ⟨rfl, ⟨rfl, by decide +kernel⟩, by decide +kernel⟩

theorem witness_bcd : ({ State.reset with i := 0x0FFD#16 } : State).i.toNat + 2 ≤ 0x0FFF := by decide

/-- The whole block and the single register at the top of memory, for the three statements on Fx55 and Fx65. -/
theorem witness_block :
    ({ State.reset with i := 0x0FF0#16 } : State).i.toNat + (15#4).toNat ≤ 0x0FFF ∧
    ({ State.reset with i := 0x0FFF#16 } : State).i.toNat + (0#4).toNat ≤ 0x0FFF := by decide

/-- The first I out of range for each access, and an I above memory. -/
theorem witness_out_of_range :
    ((15#4 : BitVec 4) ≠ 0#4 ∧ 0x0FFF < ({ State.reset with i := 0x0FF2#16 } : State).i.toNat + (15#4).toNat - 1) ∧
    ((1#4 : BitVec 4) ≠ 0#4 ∧ 0x0FFF < ({ State.reset with i := 0x1000#16 } : State).i.toNat + (1#4).toNat - 1) ∧
    0x0FFF < ({ State.reset with i := 0x0FFE#16 } : State).i.toNat + 2 ∧
    0x0FFF < ({ State.reset with i := 0x0FF1#16 } : State).i.toNat + (15#4).toNat ∧
    0x0FFF < ({ State.reset with i := 0xFFFF#16 } : State).i.toNat + (0#4).toNat := by decide

/-- The clauses of the step statement: an instruction that completes, one that halts the core, one that never returns. -/
theorem witness_step_clauses :
    Fetches (State.reset.withFetchWord 16 0x6005) (.ldImm 0#4 5#8) ∧
    execd (.ldImm 0#4 5#8) (State.reset.withFetchWord 16 0x6005).beginCycle (fun t => !t.halted) = true ∧
    Fetches (({ State.reset with i := 0x0FFF#16 } : State).withFetchWord 16 0xF155) (.storeRegs 1#4) ∧
    execd (.storeRegs 1#4) (({ State.reset with i := 0x0FFF#16 } : State).withFetchWord 16 0xF155).beginCycle (fun t => t.halted) = true ∧
    exec (.ldVxK 3#4) ((oracleMove false State.reset).withFetchWord 16 0xF30A).beginCycle = .fault .keyWaitUnanswered :=
  ⟨⟨⟨rfl, by decide +kernel⟩, by decide +kernel⟩, by decide +kernel, ⟨⟨rfl, by decide +kernel⟩, by decide +kernel⟩,
    by decide +kernel, rfl⟩

theorem witness_invalid_word :
    FetchesWord State.reset 0x0000#16 ∧ wordWf 0x0000#16 = false ∧
    FetchesWord (({ State.reset with pc := 0x0FFE#16 } : State).withFetchWord 16 0xF1FF) 0xF1FF#16 ∧ wordWf 0xF1FF#16 = false :=
  ⟨⟨⟨rfl, by decide⟩, by decide +kernel⟩, by decide +kernel, ⟨⟨rfl, by decide⟩, by decide +kernel⟩, by decide +kernel⟩

theorem witness_halted : ({ State.reset with halted := true } : State).halted = true := rfl

/-- The two clauses of a failed fetch: one byte is there, none is. -/
theorem witness_unfetchable :
    (({ State.reset with pc := 0x0FFF#16 } : State).halted = false ∧ 0x0FFE < (0x0FFF#16).toNat) ∧
    (({ State.reset with pc := 0x10FE#16 } : State).halted = false ∧ 0x0FFE < (0x10FE#16).toNat) := by decide

/-- A Step that answers a state, in each way: an instruction completes, a skip is taken, a jump is taken, an INVALID word is
passed over, an access faults, the core is halted. For the statements over every Step. -/
theorem witness_every_step :
    ran 0x6005 State.reset (fun t => !t.halted && t.pc == 0x0202#16) = true ∧
    ran 0x3000 State.reset (fun t => !t.halted && t.pc == 0x0204#16) = true ∧
    ran 0x1FFF State.reset (fun t => !t.halted && t.pc == 0x0FFF#16) = true ∧
    ran 0x0000 State.reset (fun t => !t.halted && t.report != .none) = true ∧
    ran 0xF155 { State.reset with i := 0x0FFF#16 } (fun t => t.halted) = true ∧
    (match step { State.reset with halted := true } with | .next t => t.halted | _ => false) = true := by decide +kernel

/-- A Step to a clean state, for the statement on clean runs. -/
theorem witness_clean : ran 0x6005 State.reset (fun t => t.clean) = true := by decide +kernel

/-- An instruction that answers a next state, for the statement on what instructions may write. -/
theorem witness_exec_answers : execd (.storeRegs 15#4) State.reset (fun t => t.pc == 0x0202#16) = true := by decide +kernel

/-- PC and I such that sixteen bytes from I end at the top of memory. -/
def endOfMemory : State := { State.reset with pc := 0x0FEE#16, i := 0x0FF0#16 }

/-- The longest block that ends at the top of memory and starts at the next instruction, and the shortest. -/
theorem witness_store_then_fetch :
    (1 ≤ (15#4 : Reg).toNat ∧ endOfMemory.pc.toNat + 2 + (15#4 : Reg).toNat ≤ 0x0FFF ∧ endOfMemory.i = endOfMemory.pc + 2#16 ∧
      endOfMemory.halted = false) ∧
    (1 ≤ (1#4 : Reg).toNat ∧ endOfMemory.pc.toNat + 2 + (1#4 : Reg).toNat ≤ 0x0FFF) := by decide

/-- A state with the invariant at the bounds of PC and the stack, halted and marked, with a byte stored. -/
theorem witness_invariant :
    MachineInv { State.reset with
      pc := 0x10FE#16, stack := Vector.replicate 16 0x1000#16, mem := [(0xFFF, 1#8)], halted := true, faultMark := true,
      report := .addressFault 0x10FE } where
  mem_wf := by decide
  pc_le := by decide
  stack_le k := by simp
  one_signal := by decide
  report_marked _ := rfl
  halted_marked _ := rfl

/-- A marked state, from which a Step answers a state; and memory in canonical form, for what happens between Steps. -/
theorem witness_marked :
    ({ State.reset with faultMark := true } : State).faultMark = true ∧
    ran 0x6005 { State.reset with faultMark := true } (fun t => t.report == .none) = true ∧
    ({ State.reset with mem := [(0x200, 1#8)] } : State).mem.wf = true := by decide +kernel

/-- A store that a Step makes from a state with the invariant. -/
theorem witness_invariant_step : ran 0xFF55 { withRegs [(0#4, 0x5A#8)] with i := 0x0FF0#16 } (fun t => t.mem.read 0xFF0 == 0x5A#8) = true := by
  decide +kernel

end Sys2Proof.Tests
end

section
/-! PROOFS. The host's Load (spec/20_memory.md R75, R76): one lemma for what every byte reads as afterwards, one for the frame. -/

namespace Sys2Proof.Machine

/-- A read after Load: inside the copied block the program's byte, outside what was there (R75, R76). -/
theorem read_hostLoad (bytes : List Byte) (s : State) (a : Nat) :
    (hostLoad bytes s).mem.read a =
      if 0x200 ≤ a ∧ a < 0x200 + min bytes.length 3584 then bytes.getD (a - 0x200) 0 else s.mem.read a := by
  rw [hostLoad, State.setMem_mem, Memory.read_writeList, List.length_take, Nat.min_comm]
  simp only [Config.progBase, Config.progMax]
  split
  · next h =>
    have hk : a - 0x200 < 3584 := by omega
    rw [List.getD_eq_getElem?_getD, List.getD_eq_getElem?_getD, List.getElem?_take_of_lt hk]
  · rfl

/-- Load writes memory alone (R76). -/
theorem unchanged_hostLoad (bytes : List Byte) (s : State) : UnchangedExcept [.mem] s (hostLoad bytes s) :=
  unchanged_setMem s _

/-- Settles O3: the two byte clauses are the two branches of `read_hostLoad`, the last is the frame of the one memory update. -/
theorem loadCopiesTheProgramOnly : Obligations.LoadCopiesTheProgramOnly := by
  intro bytes s
  refine ⟨fun k hk => ?copied, fun a ha => ?outside, unchanged_hostLoad bytes s⟩
  case copied => rw [read_hostLoad, if_pos (by omega), Nat.add_sub_cancel_left]
  case outside => rw [read_hostLoad, if_neg (by omega)]

end Sys2Proof.Machine
end

section
/-! PROOFS. CLS (spec/40_family_0_to_2_cls_ret_jp_call.md R120): the one word that decodes to it, the pixels it leaves, its
frame. -/

namespace Sys2Proof

/-! ### No other word decodes to CLS -/

theorem decodeFamily8_ne_cls (w : Word) : decodeFamily8 w ≠ some .cls := by
  unfold decodeFamily8
  split <;> simp

theorem decodeFamilyE_ne_cls (w : Word) : decodeFamilyE w ≠ some .cls := by
  unfold decodeFamilyE
  split <;> simp

theorem decodeFamilyF_ne_cls (w : Word) : decodeFamilyF w ≠ some .cls := by
  unfold decodeFamilyF
  split <;> simp

/-- The opcode map's row 1 (R98): of family 0x0 the test for the whole word decides, and every other family answers another
instruction or none. -/
theorem decodeWord_eq_cls_iff (w : Word) : decodeWord w = some .cls ↔ w = 0x00E0#16 := by
  refine ⟨fun h => ?_, fun h => h ▸ rfl⟩
  unfold decodeWord at h
  split at h
  case h_1 => -- family 0x0
    split at h
    · assumption
    · split at h <;> cases h
  case h_6 | h_10 => split at h <;> cases h -- families 0x5 and 0x9
  case h_9 => exact absurd h (decodeFamily8_ne_cls w)
  case h_15 => exact absurd h (decodeFamilyE_ne_cls w)
  case h_16 => exact absurd h (decodeFamilyF_ne_cls w)
  all_goals cases h

end Sys2Proof

namespace Sys2Proof.Machine

@[simp] theorem State.pixel_cleared (s : State) (r : Fin 32) (c : Fin 64) : s.cleared.pixel r c = false := by
  simp [State.pixel]

@[simp] theorem State.pixel_dispose (s : State) (d : Disposition) (r : Fin 32) (c : Fin 64) :
    (s.dispose d).pixel r c = s.pixel r c := rfl

theorem exec_cls (s : State) : exec .cls s = .next (s.cleared.dispose .advanceOne) := rfl

/-- CLS changes the pixels, `clear_requested` and PC alone: the clear's frame, then that of the disposition (R92, R120). -/
theorem unchanged_cleared_dispose (d : Disposition) (s : State) :
    UnchangedExcept [.fb, .clear, .pc] s (s.cleared.dispose d) :=
  unchanged_then (unchanged_dispose s.cleared d) (by simp) (unchanged_mono (by simp) (unchanged_cleared s))

/-- Settles O8: the whole-word mask leaves the word to `decodeWord_eq_cls_iff`, and the state `exec_cls` answers is read off
piece by piece. -/
theorem clsClearsEveryPixel : Obligations.ClsClearsEveryPixel := by
  refine ⟨fun w => ?decodes, fun s => ⟨_, exec_cls s, fun r c => ?pixels, rfl, rfl, unchanged_cleared_dispose _ s, ?nextCycle⟩⟩
  case decodes =>
    have hmask : w &&& 0xFFFF#16 = w := BitVec.and_allOnes
    rw [hmask, decodeWord_eq_cls_iff]
  case pixels => rw [State.pixel_dispose, State.pixel_cleared]
  case nextCycle => exact State.beginCycle_clearRequested _

end Sys2Proof.Machine
end

section
/-! PROOFS. Which words decode to an instruction that its family nibble, or that and its low nibble, tells apart
(spec/30_encoding.md R97, R98). -/

namespace Sys2Proof

/-! ### A decoded word is of its instruction's family -/

theorem famOf_encode_of_decodeFamily8 {w : Word} {i : Instr} (h : decodeFamily8 w = some i) : famOf (encode i) = 0x8#4 := by
  unfold decodeFamily8 at h
  split at h <;> cases h <;> exact famOf_formatXYN ..

theorem famOf_encode_of_decodeFamilyE {w : Word} {i : Instr} (h : decodeFamilyE w = some i) : famOf (encode i) = 0xE#4 := by
  unfold decodeFamilyE at h
  split at h <;> cases h <;> exact famOf_formatXKK ..

theorem famOf_encode_of_decodeFamilyF {w : Word} {i : Instr} (h : decodeFamilyF w = some i) : famOf (encode i) = 0xF#4 := by
  unfold decodeFamilyF at h
  split at h <;> cases h <;> exact famOf_formatXKK ..

/-- Every arm of the decoder answers instructions of its own family alone (R97). -/
theorem famOf_eq_of_decodeWord {w : Word} {i : Instr} (h : decodeWord w = some i) : famOf w = famOf (encode i) := by
  unfold decodeWord at h
  split at h
  case h_1 => -- family 0x0: the two whole words
    split at h
    · next hw => cases h; rw [hw]; rfl
    · split at h
      · next hw => cases h; rw [hw]; rfl
      · cases h
  case h_6 hf | h_10 hf => -- families 0x5 and 0x9
    split at h
    · cases h; rw [hf]; exact (famOf_formatXYN ..).symm
    · cases h
  case h_9 hf => rw [hf, famOf_encode_of_decodeFamily8 h]
  case h_15 hf => rw [hf, famOf_encode_of_decodeFamilyE h]
  case h_16 => -- family 0xF, where no other arm applies
    rw [famOf_encode_of_decodeFamilyF h]
    simp only [imp_false] at *
    bv_omega
  all_goals next hf => cases h; rw [hf]; simp [encode]

end Sys2Proof

namespace Sys2Proof.Machine

/-- A row with mask F000, in its family's arm (R98). -/
theorem decodesAs_family {g : Word → Instr} (f : BitVec 4) (hdec : ∀ w, famOf w = f → decodeWord w = some (g w))
    (henc : ∀ w, famOf (encode (g w)) = f) : DecodesAs 0xF000#16 (formatNNN f 0#12) g := by
  intro w
  rw [mask_fam]
  exact ⟨hdec w, fun h => (famOf_eq_of_decodeWord h).trans (henc w)⟩

/-- A row with mask F00F, in its family's arm (R98). -/
theorem decodesAs_family_low {g : Word → Instr} (f n : BitVec 4)
    (hdec : ∀ w, famOf w = f → (decodeWord w = some (g w) ↔ nOf w = n))
    (henc : ∀ w, famOf (encode (g w)) = f) : DecodesAs 0xF00F#16 (formatXYN f 0#4 0#4 n) g := by
  intro w
  rw [mask_fam_n]
  refine ⟨fun ⟨hf, hn⟩ => (hdec w hf).mpr hn, fun h => ?_⟩
  have hf : famOf w = f := (famOf_eq_of_decodeWord h).trans (henc w)
  exact ⟨hf, (hdec w hf).mp h⟩

end Sys2Proof.Machine
end

section
/-! PROOFS. Families 0x3 to 0x7 (spec/41_family_3_to_7_skip_load_add.md R130 to R134): the arms of the decoder, the two
dispositions of a skip, the frame of a register write. -/

namespace Sys2Proof

/-! ### The arms of the decoder (R98 rows 5 to 9) -/

theorem decodeWord_family3 {w : Word} (h : famOf w = 0x3#4) : decodeWord w = some (.seImm (xOf w) (kkOf w)) := by
  simp [decodeWord, h]

theorem decodeWord_family4 {w : Word} (h : famOf w = 0x4#4) : decodeWord w = some (.sneImm (xOf w) (kkOf w)) := by
  simp [decodeWord, h]

theorem decodeWord_family5 {w : Word} (h : famOf w = 0x5#4) :
    decodeWord w = if nOf w = 0x0#4 then some (.seReg (xOf w) (yOf w)) else none := by
  simp [decodeWord, h]

/-- A word of family 0x5 is INVALID unless its low nibble is 0 (R104, R132). -/
theorem decodeWord_family5_eq_none {w : Word} (hf : famOf w = 0x5#4) (hn : nOf w ≠ 0#4) : decodeWord w = none := by
  rw [decodeWord_family5 hf, if_neg hn]

theorem decodeWord_family6 {w : Word} (h : famOf w = 0x6#4) : decodeWord w = some (.ldImm (xOf w) (kkOf w)) := by
  simp [decodeWord, h]

theorem decodeWord_family7 {w : Word} (h : famOf w = 0x7#4) : decodeWord w = some (.addImm (xOf w) (kkOf w)) := by
  simp [decodeWord, h]

/-- Mask 000F tests the low nibble alone. -/
theorem mask_low (w : Word) : w &&& 0x000F#16 = formatXYN 0#4 0#4 0#4 (nOf w) := by
  conv_lhs => rw [← formatXYN_fields w]
  rw [show (0x000F#16 : Word) = formatXYN 0#4 0#4 0#4 0xF#4 from rfl, formatXYN_and, and_ones4, BitVec.and_zero, BitVec.and_zero,
    BitVec.and_zero]

end Sys2Proof

namespace Sys2Proof.Machine

/-! ### The meanings -/

section
variable (x y : Reg) (kk : Byte) (s : State)

theorem exec_seImm : exec (.seImm x kk) s = .next (s.dispose (skipIf (s.readV x == kk))) := rfl

theorem exec_sneImm : exec (.sneImm x kk) s = .next (s.dispose (skipIf (s.readV x != kk))) := rfl

theorem exec_seReg : exec (.seReg x y) s = .next (s.dispose (skipIf (s.readV x == s.readV y))) := rfl

theorem exec_ldImm : exec (.ldImm x kk) s = .next ((s.writeV x kk).dispose .advanceOne) := rfl

theorem exec_addImm : exec (.addImm x kk) s = .next ((s.writeV x (s.readV x + kk)).dispose .advanceOne) := rfl

end

/-! ### Skips (R92, R124) -/

theorem pcAfter_skipIf_of_true {c : Bool} (pc : Word) (h : c = true) : pcAfter pc (skipIf c) = pc + 4#16 := by
  rw [h]; rfl

theorem pcAfter_skipIf_of_false {c : Bool} (pc : Word) (h : c = false) : pcAfter pc (skipIf c) = pc + 2#16 := by
  rw [h]; rfl

/-- PC + 4 tells a skip taken from one not taken. -/
theorem pcAfter_skipIf_eq_add_four_iff (pc : Word) (c : Bool) : pcAfter pc (skipIf c) = pc + 4#16 ↔ c = true := by
  refine ⟨fun h => ?_, pcAfter_skipIf_of_true pc⟩
  cases c
  case false =>
    have hpc : pc + 2#16 = pc + 4#16 := h
    exact absurd hpc (by bv_omega)
  case true => rfl

/-- A skip whose condition `c` decides `p`: the clauses of R92 for it. -/
theorem skip_dispositions {c : Bool} {p : Prop} (hc : c = true ↔ p) (s : State) :
    (p → (s.dispose (skipIf c)).pc = s.pc + 4#16) ∧ (¬p → (s.dispose (skipIf c)).pc = s.pc + 2#16) :=
  ⟨fun h => pcAfter_skipIf_of_true s.pc (hc.mpr h),
   fun h => pcAfter_skipIf_of_false s.pc (Bool.eq_false_of_not_eq_true fun e => h (hc.mp e))⟩

/-- Of a skip and the one with the sense inverted exactly one is taken (R131, R150). -/
theorem skip_iff_not_skip_not (s : State) (c : Bool) :
    (s.dispose (skipIf c)).pc = s.pc + 4#16 ↔ ¬(s.dispose (skipIf (!c))).pc = s.pc + 4#16 := by
  simp only [State.dispose_pc, pcAfter_skipIf_eq_add_four_iff, Bool.not_eq_true', Bool.not_eq_false]

/-- The comparison of two bytes is that of their unsigned values (R130). -/
theorem beq_iff_toNat_eq (a b : Byte) : (a == b) = true ↔ a.toNat = b.toNat := by
  rw [beq_iff_eq, BitVec.toNat_inj]

theorem bne_iff_toNat_ne (a b : Byte) : (a != b) = true ↔ a.toNat ≠ b.toNat := by
  rw [bne_iff_ne, ne_eq, ← BitVec.toNat_inj]

/-! ### A register write and a disposition -/

theorem unchanged_writeV_dispose (x : Reg) (b : Byte) (d : Disposition) (s : State) :
    UnchangedExcept [.regs, .pc] s ((s.writeV x b).dispose d) :=
  unchanged_then (unchanged_dispose _ d) (by simp) (unchanged_mono (by simp) (unchanged_writeV s x b))

theorem regsUnchanged_writeV_dispose (x : Reg) (b : Byte) (d : Disposition) (s : State) :
    RegsUnchangedExcept (· = x) s ((s.writeV x b).dispose d) :=
  regsUnchanged_writeV s x b

/-! ### The obligations -/

/-- Settles O13: SE Vx, kk is the skip on `Vx = kk`, a comparison of unsigned values. -/
theorem skipIfEqualImmediate : Obligations.SkipIfEqualImmediate := by
  refine ⟨decodesAs_family 0x3#4 (fun _ => decodeWord_family3) fun _ => famOf_formatXKK .., fun x kk s => ?_⟩
  obtain ⟨hskip, hnext⟩ := skip_dispositions (beq_iff_toNat_eq (s.readV x) kk) s
  exact ⟨_, exec_seImm x kk s, hskip, hnext, unchanged_dispose s _⟩

/-- Settles O14: SNE Vx, kk is the skip on `Vx ≠ kk`, whose condition is the negation of that of SE Vx, kk. -/
theorem skipIfUnequalImmediate : Obligations.SkipIfUnequalImmediate := by
  refine ⟨decodesAs_family 0x4#4 (fun _ => decodeWord_family4) fun _ => famOf_formatXKK .., fun x kk s => ?_⟩
  obtain ⟨hskip, hnext⟩ := skip_dispositions (bne_iff_toNat_ne (s.readV x) kk) s
  exact ⟨_, exec_sneImm x kk s, hskip, fun h => hnext (not_not_intro h), unchanged_dispose s _,
    _, exec_seImm x kk s, skip_iff_not_skip_not s (s.readV x == kk)⟩

/-- Settles O15: SE Vx, Vy is the skip on `Vx = Vy`; the low nibble alone decides whether a word of family 0x5 is one. -/
theorem skipIfRegistersEqual : Obligations.SkipIfRegistersEqual := by
  refine ⟨decodesAs_family_low 0x5#4 0x0#4 (fun w hf => ?decodes) fun _ => famOf_formatXYN .., fun w hf hn => ?invalid,
    fun x y s => ?runs⟩
  case decodes => rw [decodeWord_family5 hf]; exact ite_eq_left_iff.trans (by simp)
  case invalid =>
    refine decodeWord_family5_eq_none ((mask_fam w 0x5#4).mp hf) fun h0 => hn ?_
    rw [mask_low, h0]; rfl
  case runs =>
    obtain ⟨hskip, hnext⟩ := skip_dispositions (beq_iff_toNat_eq (s.readV x) (s.readV y)) s
    exact ⟨_, exec_seReg x y s, hskip, hnext, unchanged_dispose s _⟩

/-- Settles O17: LD Vx, kk is one register write and advance-one. -/
theorem loadImmediate : Obligations.LoadImmediate := by
  refine ⟨decodesAs_family 0x6#4 (fun _ => decodeWord_family6) fun _ => famOf_formatXKK .., fun x kk s => ?_⟩
  exact ⟨_, exec_ldImm x kk s, State.readV_writeV_self s x kk, rfl, regsUnchanged_writeV_dispose x kk _ s,
    unchanged_writeV_dispose x kk _ s⟩

/-- Settles O18: ADD Vx, kk is one register write and advance-one; the sum of bytes is the sum modulo 256. -/
theorem addImmediateWraps : Obligations.AddImmediateWraps := by
  refine ⟨decodesAs_family 0x7#4 (fun _ => decodeWord_family7) fun _ => famOf_formatXKK .., fun x kk s => ?_⟩
  refine ⟨_, exec_addImm x kk s, ?sum, rfl, regsUnchanged_writeV_dispose x _ _ s, unchanged_writeV_dispose x _ _ s⟩
  case sum => rw [State.readV_dispose, State.readV_writeV_self, BitVec.toNat_add]

end Sys2Proof.Machine
end

section
/-! PROOFS. Family 0x8 (spec/42_family_8_alu.md R140 to R143): the rows of the opcode map that the low nibble tells apart, the
copy and the three bitwise operations. -/

namespace Sys2Proof

/-! ### The arm of the decoder (R98 rows 10 to 18) -/

theorem decodeWord_family8 {w : Word} (h : famOf w = 0x8#4) : decodeWord w = decodeFamily8 w := by
  simp [decodeWord, h]

/-- Every row of family 0x8 answers the instruction with its own low nibble alone (R97). -/
theorem nOf_eq_of_decodeFamily8 {w : Word} {i : Instr} (h : decodeFamily8 w = some i) : nOf w = nOf (encode i) := by
  unfold decodeFamily8 at h
  split at h <;> cases h
  all_goals next hn => rw [hn]; exact (nOf_formatXYN ..).symm

section
variable {w : Word}

theorem decodeFamily8_low0 (h : nOf w = 0x0#4) : decodeFamily8 w = some (.ldReg (xOf w) (yOf w)) := by
  simp [decodeFamily8, h]

theorem decodeFamily8_low1 (h : nOf w = 0x1#4) : decodeFamily8 w = some (.orReg (xOf w) (yOf w)) := by
  simp [decodeFamily8, h]

theorem decodeFamily8_low2 (h : nOf w = 0x2#4) : decodeFamily8 w = some (.andReg (xOf w) (yOf w)) := by
  simp [decodeFamily8, h]

theorem decodeFamily8_low3 (h : nOf w = 0x3#4) : decodeFamily8 w = some (.xorReg (xOf w) (yOf w)) := by
  simp [decodeFamily8, h]

end

end Sys2Proof

namespace Sys2Proof.Machine

/-- A row of family 0x8: the arm for its low nibble and the format of its instruction decide which words are that row's (R98). -/
theorem decodesAs_family8 {g : Word → Instr} (n : BitVec 4) (hdec : ∀ w, nOf w = n → decodeFamily8 w = some (g w))
    (henc : ∀ w, encode (g w) = formatXYN 0x8#4 (xOf w) (yOf w) n) : DecodesAs 0xF00F#16 (formatXYN 0x8#4 0#4 0#4 n) g := by
  refine decodesAs_family_low 0x8#4 n (fun w hf => ?low) fun w => by rw [henc, famOf_formatXYN]
  case low =>
    rw [decodeWord_family8 hf]
    refine ⟨fun h => ?_, hdec w⟩
    rw [nOf_eq_of_decodeFamily8 h, henc, nOf_formatXYN]

/-! ### The meanings -/

section
variable (x y : Reg) (s : State)

theorem exec_ldReg : exec (.ldReg x y) s = .next ((s.writeV x (s.readV y)).dispose .advanceOne) := rfl

theorem exec_orReg : exec (.orReg x y) s = .next ((s.writeV x (s.readV x ||| s.readV y)).dispose .advanceOne) := rfl

theorem exec_andReg : exec (.andReg x y) s = .next ((s.writeV x (s.readV x &&& s.readV y)).dispose .advanceOne) := rfl

theorem exec_xorReg : exec (.xorReg x y) s = .next ((s.writeV x (s.readV x ^^^ s.readV y)).dispose .advanceOne) := rfl

end

/-- An instruction that writes to Vx a byte combined bit by bit, by `f`, from the old Vx and Vy: Vx and PC afterwards, and the
frame. VF is in the frame unless it is Vx (R141). -/
theorem runs_bitwise {i : Instr} {x y : Reg} {b : Byte} {s : State} (f : Bool → Bool → Bool)
    (hexec : exec i s = .next ((s.writeV x b).dispose .advanceOne))
    (hbits : ∀ k, b.getLsbD k = f ((s.readV x).getLsbD k) ((s.readV y).getLsbD k)) :
    Runs i s (fun t =>
      (∀ k, (t.readV x).getLsbD k = f ((s.readV x).getLsbD k) ((s.readV y).getLsbD k)) ∧ t.pc = s.pc + 2#16 ∧
      RegsUnchangedExcept (· = x) s t ∧ UnchangedExcept [.regs, .pc] s t) := by
  refine ⟨_, hexec, fun k => ?bits, rfl, regsUnchanged_writeV_dispose x b _ s, unchanged_writeV_dispose x b _ s⟩
  case bits => rw [State.readV_dispose, State.readV_writeV_self, hbits]

/-! ### The obligations -/

/-- Settles O19: LD Vx, Vy is one register write and advance-one. -/
theorem copyRegister : Obligations.CopyRegister := by
  refine ⟨decodesAs_family8 0x0#4 (fun _ => decodeFamily8_low0) fun _ => rfl, fun x y s => ?_⟩
  exact ⟨_, exec_ldReg x y s, State.readV_writeV_self s x _, rfl, regsUnchanged_writeV_dispose x _ _ s,
    unchanged_writeV_dispose x _ _ s⟩

/-- Settles O20: OR, AND and XOR are each one register write of a byte whose bits are those of the operation on bits. -/
theorem logicOperations : Obligations.LogicOperations := by
  refine ⟨decodesAs_family8 0x1#4 (fun _ => decodeFamily8_low1) fun _ => rfl,
    decodesAs_family8 0x2#4 (fun _ => decodeFamily8_low2) fun _ => rfl,
    decodesAs_family8 0x3#4 (fun _ => decodeFamily8_low3) fun _ => rfl, fun x y s => ⟨?or, ?and, ?xor⟩⟩
  case or => exact runs_bitwise or (exec_orReg x y s) fun _ => BitVec.getLsbD_or
  case and => exact runs_bitwise and (exec_andReg x y s) fun _ => BitVec.getLsbD_and
  case xor => exact runs_bitwise xor (exec_xorReg x y s) fun _ => BitVec.getLsbD_xor

end Sys2Proof.Machine
end

section
/-! PROOFS. Families 0x9 and 0xA (spec/43_family_9_to_c_sne_ldi_jpv0_rnd.md R150, R151): their arms of the decoder, the
zero-extension of a 12-bit address, the frame of a write to I. -/

namespace Sys2Proof

/-! ### The arms of the decoder (R98) -/

theorem decodeWord_family9 {w : Word} (h : famOf w = 0x9#4) :
    decodeWord w = if nOf w = 0x0#4 then some (.sneReg (xOf w) (yOf w)) else none := by
  simp [decodeWord, h]

theorem decodeWord_familyA {w : Word} (h : famOf w = 0xA#4) : decodeWord w = some (.ldI (nnnOf w)) := by
  simp [decodeWord, h]

end Sys2Proof

namespace Sys2Proof.Machine

/-! ### The meanings -/

theorem exec_sneReg (x y : Reg) (s : State) : exec (.sneReg x y) s = .next (s.dispose (skipIf (s.readV x != s.readV y))) := rfl

theorem exec_ldI (nnn : Addr12) (s : State) : exec (.ldI nnn) s = .next ((s.setI (zextAddr nnn)).dispose .advanceOne) := rfl

/-- Bits 15 to 12 of the extended address are 0: it is the same number (R151). -/
theorem toNat_zextAddr (a : Addr12) : (zextAddr a).toNat = a.toNat :=
  BitVec.toNat_setWidth_of_le (by decide)

theorem unchanged_setI_dispose (a : Word) (d : Disposition) (s : State) : UnchangedExcept [.index, .pc] s ((s.setI a).dispose d) :=
  unchanged_then (unchanged_dispose _ d) (by simp) (unchanged_mono (by simp) (unchanged_setI s a))

/-! ### The obligations -/

/-- Settles O16: SNE Vx, Vy is the skip on `Vx ≠ Vy`, whose condition is the negation of that of SE Vx, Vy; the low nibble alone
decides whether a word of family 0x9 is one. -/
theorem skipIfRegistersDiffer : Obligations.SkipIfRegistersDiffer := by
  refine ⟨decodesAs_family_low 0x9#4 0x0#4 (fun w hf => ?decodes) fun _ => famOf_formatXYN .., fun x y s => ?runs⟩
  case decodes => rw [decodeWord_family9 hf]; exact ite_eq_left_iff.trans (by simp)
  case runs =>
    obtain ⟨hskip, hnext⟩ := skip_dispositions (bne_iff_toNat_ne (s.readV x) (s.readV y)) s
    exact ⟨_, exec_sneReg x y s, hskip, fun h => hnext (not_not_intro h), unchanged_dispose s _,
      _, exec_seReg x y s, skip_iff_not_skip_not s (s.readV x == s.readV y)⟩

/-- Settles O26: LD I, nnn is one write to I and advance-one; the zero-extended address is the number nnn. -/
theorem loadIndex : Obligations.LoadIndex := by
  refine ⟨decodesAs_family 0xA#4 (fun _ => decodeWord_familyA) fun _ => famOf_formatNNN .., fun nnn s => ?_⟩
  exact ⟨_, exec_ldI nnn s, toNat_zextAddr nnn, rfl, unchanged_setI_dispose _ _ s⟩

end Sys2Proof.Machine
end

section
/-! PROOFS. Family 0xF (spec/46_family_f_timers_index_memory.md R180): the rows of the opcode map that the low byte tells apart,
the read of the delay timer, and the Step of an instruction that leaves the core running. -/

namespace Sys2Proof

/-! ### The arm of the decoder (R98 rows 26 to 34) -/

theorem decodeWord_familyF {w : Word} (h : famOf w = 0xF#4) : decodeWord w = decodeFamilyF w := by
  simp [decodeWord, h]

/-- Every row of family 0xF answers the instruction with its own low byte alone (R97). -/
theorem kkOf_eq_of_decodeFamilyF {w : Word} {i : Instr} (h : decodeFamilyF w = some i) : kkOf w = kkOf (encode i) := by
  unfold decodeFamilyF at h
  split at h <;> cases h
  all_goals next hkk => rw [hkk]; exact (kkOf_formatXKK ..).symm

theorem decodeFamilyF_low07 {w : Word} (h : kkOf w = 0x07#8) : decodeFamilyF w = some (.ldVxDt (xOf w)) := by
  simp [decodeFamilyF, h]

end Sys2Proof

namespace Sys2Proof.Machine

/-- A row of family 0xF: the arm for its low byte and the format of its instruction decide which words are that row's (R98). -/
theorem decodesAs_familyF {g : Word → Instr} (kk : Byte) (hdec : ∀ w, kkOf w = kk → decodeFamilyF w = some (g w))
    (henc : ∀ w, encode (g w) = formatXKK 0xF#4 (xOf w) kk) : DecodesAs 0xF0FF#16 (formatXKK 0xF#4 0#4 kk) g := by
  intro w
  rw [mask_fam_kk]
  refine ⟨fun ⟨hf, hkk⟩ => (decodeWord_familyF hf).trans (hdec w hkk), fun h => ?_⟩
  have hf : famOf w = 0xF#4 := by rw [famOf_eq_of_decodeWord h, henc, famOf_formatXKK]
  rw [decodeWord_familyF hf] at h
  exact ⟨hf, by rw [kkOf_eq_of_decodeFamilyF h, henc, kkOf_formatXKK]⟩

/-! ### The cycle and the meaning -/

/-- A Step whose instruction answers a state that is not halted ends with the timers' tick (R90 step 6). -/
theorem step_eq_tick_of_exec {s t : State} {i : Instr} (hfetch : Fetches s i) (hexec : exec i s.beginCycle = .next t)
    (hrun : t.halted = false) : step s = .next t.tick := by
  obtain ⟨⟨hhalted, hpc⟩, hdecode⟩ := hfetch
  have hend : t.endCycle = t.tick := if_neg (by simp [hrun])
  rw [step_of_instr hhalted hpc hdecode, hexec, finishCycle, hend]

theorem exec_ldVxDt (x : Reg) (s : State) : exec (.ldVxDt x) s = .next ((s.writeV x s.dt).dispose .advanceOne) := rfl

/-! ### The obligation -/

/-- Settles O33: LD Vx, DT is one register write and advance-one. In the Step the tick comes after that write, so Vx has the DT the
cycle began with and the decrement acts on DT alone. -/
theorem readDelayTimer : Obligations.ReadDelayTimer := by
  refine ⟨decodesAs_familyF 0x07#8 (fun _ => decodeFamilyF_low07) fun _ => rfl, fun x s => ⟨?runs, fun hfetch => ?cycle⟩⟩
  case runs =>
    exact ⟨_, exec_ldVxDt x s, State.readV_writeV_self s x _, rfl, regsUnchanged_writeV_dispose x _ _ s,
      unchanged_writeV_dispose x _ _ s⟩
  case cycle =>
    have ⟨⟨hrun, _⟩, _⟩ := hfetch
    refine ⟨_, step_eq_tick_of_exec hfetch (exec_ldVxDt x s.beginCycle) hrun, ?read, ?decrement⟩
    case read => simp
    case decrement => rw [State.tick_dt, toNat_tick]; simp

end Sys2Proof.Machine
end

section
/-! PROOFS. Decoding and encoding undo each other (spec/30_encoding.md R94 to R99): a word decodes to an instruction exactly when
it is that instruction's word. Which words a row of the opcode map admits (R97, R98) then follows from the formats alone. -/

namespace Sys2Proof

/-! ### Decoding an encoded instruction -/

/-- The fields of a format are read back, so the arm of the instruction's own family, low nibble or low byte answers. -/
theorem decodeWord_encode (i : Instr) : decodeWord (encode i) = some i := by
  cases i
  case cls | ret => rfl -- the two whole words
  case jp | call | ldI | jpV0 => simp [encode, decodeWord] -- format NNN
  case seImm | sneImm | ldImm | addImm | rnd => simp [encode, decodeWord] -- format XKK
  case seReg | sneReg | drw => simp [encode, decodeWord] -- formats XY and XYN
  case ldReg | orReg | andReg | xorReg | addReg | sub | shr | subn | shl => simp [encode, decodeWord, decodeFamily8]
  case skp | sknp => simp [encode, decodeWord, decodeFamilyE]
  case ldVxDt | ldVxK | ldDtVx | ldStVx | addI | ldF | ldB | storeRegs | loadRegs => simp [encode, decodeWord, decodeFamilyF]

/-- Settles O4: the word is read back by `decodeWord_encode`, and the decoder on bytes by `decode_bytesOfWord`. -/
theorem decodeOfEncodeIsTheInstruction : Obligations.DecodeOfEncodeIsTheInstruction := by
  intro i rest
  refine ⟨decodeWord_encode i, ?bytes⟩
  case bytes =>
    unfold encodeBytes
    rw [decode_bytesOfWord, decodeWord_encode]

/-! ### Encoding a decoded word -/

section
variable {w : Word} {f n : BitVec 4} {kk : Byte}

/-- A word of a known family is that family's format of its own fields; here and in the next three for each format. -/
theorem formatNNN_of_fam (hf : famOf w = f) : formatNNN f (nnnOf w) = w := by rw [← hf, formatNNN_fields]

theorem formatXKK_of_fam (hf : famOf w = f) : formatXKK f (xOf w) (kkOf w) = w := by rw [← hf, formatXKK_fields]

theorem formatXKK_of_fam_kk (hf : famOf w = f) (hk : kkOf w = kk) : formatXKK f (xOf w) kk = w := by
  rw [← hk, formatXKK_of_fam hf]

theorem formatXYN_of_fam_n (hf : famOf w = f) (hn : nOf w = n) : formatXYN f (xOf w) (yOf w) n = w := by
  rw [← hf, ← hn, formatXYN_fields]

end

theorem encode_of_decodeFamily8 {w : Word} {i : Instr} (hf : famOf w = 0x8#4) (h : decodeFamily8 w = some i) : encode i = w := by
  unfold decodeFamily8 at h
  split at h <;> cases h
  all_goals next hn => exact formatXYN_of_fam_n hf hn

theorem encode_of_decodeFamilyE {w : Word} {i : Instr} (hf : famOf w = 0xE#4) (h : decodeFamilyE w = some i) : encode i = w := by
  unfold decodeFamilyE at h
  split at h <;> cases h
  all_goals next hk => exact formatXKK_of_fam_kk hf hk

theorem encode_of_decodeFamilyF {w : Word} {i : Instr} (hf : famOf w = 0xF#4) (h : decodeFamilyF w = some i) : encode i = w := by
  unfold decodeFamilyF at h
  split at h <;> cases h
  all_goals next hk => exact formatXKK_of_fam_kk hf hk

/-- Every arm keeps the fields it reads and tests the nibbles it does not, so the format of what it answers is the word. -/
theorem encode_of_decodeWord {w : Word} {i : Instr} (h : decodeWord w = some i) : encode i = w := by
  have hfam := famOf_eq_of_decodeWord h
  unfold decodeWord at h
  split at h
  case h_1 => -- family 0x0: the two whole words
    split at h
    · next hw => cases h; exact hw.symm
    · split at h
      · next hw => cases h; exact hw.symm
      · cases h
  case h_6 hf | h_10 hf => -- families 0x5 and 0x9
    split at h
    · next hn => cases h; exact formatXYN_of_fam_n hf hn
    · cases h
  case h_2 hf | h_3 hf | h_11 hf | h_12 hf => cases h; exact formatNNN_of_fam hf
  case h_4 hf | h_5 hf | h_7 hf | h_8 hf | h_13 hf => cases h; exact formatXKK_of_fam hf
  case h_9 hf => exact encode_of_decodeFamily8 hf h
  case h_14 hf => cases h; exact formatXYN_of_fam_n hf rfl
  case h_15 hf => exact encode_of_decodeFamilyE hf h
  case h_16 => exact encode_of_decodeFamilyF (hfam.trans (famOf_encode_of_decodeFamilyF h)) h

/-- Settles O5: `encode_of_decodeWord`. -/
theorem encodeOfDecodeIsTheWord : Obligations.EncodeOfDecodeIsTheWord :=
  fun _ _ => encode_of_decodeWord

theorem decodeWord_eq_some_iff (w : Word) (i : Instr) : decodeWord w = some i ↔ encode i = w :=
  ⟨encode_of_decodeWord, fun h => h ▸ decodeWord_encode i⟩

/-- Settles O7: each word is the word of the instruction it stands for, and neither of the last two satisfies its family's test. -/
theorem specWordsDecode : Obligations.SpecWordsDecode := by
  refine ⟨decodeWord_encode .cls, decodeWord_encode (.call 0xABC#12), decodeWord_encode (.seImm 3#4 0x2A#8),
    decodeWord_encode (.seReg 1#4 2#4), decodeWord_encode (.shl 1#4 2#4), decodeWord_encode (.ldI 0x2F0#12),
    decodeWord_encode (.drw 1#4 2#4 5#4), decodeWord_encode (.sknp 2#4), decodeWord_encode (.loadRegs 1#4), ?_, ?_⟩
  · exact decodeWord_family5_eq_none rfl (by decide)
  · rfl

end Sys2Proof

namespace Sys2Proof.Machine

/-! ### The rows of the opcode map, one lemma a format (R94, R97) -/

section
variable {g : Word → Instr} (f : BitVec 4)

/-- A row that tests the family nibble, of format NNN. -/
theorem decodesAs_nnn (henc : ∀ w, encode (g w) = formatNNN f (nnnOf w)) : DecodesAs 0xF000#16 (formatNNN f 0#12) g := by
  intro w
  rw [decodeWord_eq_some_iff, henc, mask_fam]
  exact ⟨formatNNN_of_fam, fun h => by rw [← h, famOf_formatNNN]⟩

/-- A row that tests the family nibble, of format XKK. -/
theorem decodesAs_xkk (henc : ∀ w, encode (g w) = formatXKK f (xOf w) (kkOf w)) : DecodesAs 0xF000#16 (formatNNN f 0#12) g := by
  intro w
  rw [decodeWord_eq_some_iff, henc, mask_fam]
  exact ⟨formatXKK_of_fam, fun h => by rw [← h, famOf_formatXKK]⟩

/-- A row that tests the family nibble, of format XYN. -/
theorem decodesAs_xyn (henc : ∀ w, encode (g w) = formatXYN f (xOf w) (yOf w) (nOf w)) :
    DecodesAs 0xF000#16 (formatNNN f 0#12) g := by
  intro w
  rw [decodeWord_eq_some_iff, henc, mask_fam]
  exact ⟨fun hf => formatXYN_of_fam_n hf rfl, fun h => by rw [← h, famOf_formatXYN]⟩

/-- A row that tests the family nibble and the low nibble. -/
theorem decodesAs_low (n : BitVec 4) (henc : ∀ w, encode (g w) = formatXYN f (xOf w) (yOf w) n) :
    DecodesAs 0xF00F#16 (formatXYN f 0#4 0#4 n) g := by
  intro w
  rw [decodeWord_eq_some_iff, henc, mask_fam_n]
  exact ⟨fun ⟨hf, hn⟩ => formatXYN_of_fam_n hf hn, fun h => by rw [← h, famOf_formatXYN, nOf_formatXYN]; exact ⟨rfl, rfl⟩⟩

/-- A row that tests the family nibble and the low byte. -/
theorem decodesAs_byte (kk : Byte) (henc : ∀ w, encode (g w) = formatXKK f (xOf w) kk) :
    DecodesAs 0xF0FF#16 (formatXKK f 0#4 kk) g := by
  intro w
  rw [decodeWord_eq_some_iff, henc, mask_fam_kk]
  exact ⟨fun ⟨hf, hk⟩ => formatXKK_of_fam_kk hf hk, fun h => by rw [← h, famOf_formatXKK, kkOf_formatXKK]; exact ⟨rfl, rfl⟩⟩

end

/-- A row that tests the whole word. -/
theorem decodesAs_word (i : Instr) : DecodesAs 0xFFFF#16 (encode i) fun _ => i := by
  intro w
  have hmask : w &&& 0xFFFF#16 = w := BitVec.and_allOnes
  rw [hmask, decodeWord_eq_some_iff, eq_comm]

end Sys2Proof.Machine
end

section
/-! PROOFS. Family 0x8, the instructions that write a flag (spec/42_family_8_alu.md R144 to R148). Four of them write VF and then
Vx, which is formed from the registers as the flag left them (spec/92_eei_decisions.md D7): `State.flagThen`. -/

namespace Sys2Proof.Machine

/-! ### The flags and the operations as numbers -/

theorem toNat_flag (c : Bool) : (flag c).toNat = if c then 1 else 0 := by cases c <;> rfl

theorem toNat_carry (a b : Byte) : (carry a b).toNat = if a.toNat + b.toNat > 255 then 1 else 0 := by
  simp [carry, toNat_flag]

theorem toNat_greater (a b : Byte) : (greater a b).toNat = if a.toNat > b.toNat then 1 else 0 := by
  simp [greater, toNat_flag]

theorem toNat_lowBit (a : Byte) : (lowBit a).toNat = a.toNat % 2 := by
  rw [lowBit, BitVec.toNat_and]; exact Nat.and_one_is_mod _

theorem toNat_highBit (a : Byte) : (highBit a).toNat = a.toNat / 128 := by
  rw [highBit, BitVec.toNat_ushiftRight, Nat.shiftRight_eq_div_pow]

theorem toNat_sub_byte (a b : Byte) : (a - b).toNat = (a.toNat + 256 - b.toNat) % 256 := by
  have := b.isLt
  rw [BitVec.toNat_sub]; congr 1; omega

theorem toNat_shiftRight_one (a : Byte) : (a >>> 1).toNat = a.toNat / 2 := by
  rw [BitVec.toNat_ushiftRight, Nat.shiftRight_eq_div_pow, pow_one]

theorem toNat_shiftLeft_one (a : Byte) : (a <<< 1).toNat = a.toNat * 2 % 256 := by
  rw [BitVec.toNat_shiftLeft, Nat.shiftLeft_eq, pow_one]

/-! ### Two register writes -/

section
variable (x y : Reg) (b c : Byte) (s : State)

theorem unchanged_writeV_writeV_dispose (d : Disposition) :
    UnchangedExcept [.regs, .pc] s (((s.writeV x b).writeV y c).dispose d) :=
  unchanged_then (unchanged_writeV_dispose y c d _) (by simp) (unchanged_mono (by simp) (unchanged_writeV s x b))

theorem regsUnchanged_writeV_writeV_dispose {P : Reg → Prop} (hx : P x) (hy : P y) (d : Disposition) :
    RegsUnchangedExcept P s (((s.writeV x b).writeV y c).dispose d) := by
  intro r hr
  have hrx : r ≠ x := fun e => hr (e ▸ hx)
  have hry : r ≠ y := fun e => hr (e ▸ hy)
  rw [State.readV_dispose, State.readV_writeV_ne _ _ hry, State.readV_writeV_ne _ _ hrx]

end

/-! ### A flag, then the destination -/

/-- VF written, then Vx with the value `g` reads from the state the flag left, then advance-one. -/
def State.flagThen (s : State) (x : Reg) (f : Byte) (g : State → Byte) : State :=
  ((s.writeV vf f).writeV x (g (s.writeV vf f))).dispose .advanceOne

section
variable (s : State) {x : Reg} (y : Reg) (f : Byte) (g : State → Byte)

theorem readV_flagThen_dest : (s.flagThen x f g).readV x = g (s.writeV vf f) := State.readV_writeV_self _ _ _

theorem readV_flagThen_vf (hx : x ≠ vf) : (s.flagThen x f g).readV vf = f := by
  rw [State.flagThen, State.readV_dispose, State.readV_writeV_ne _ _ hx.symm, State.readV_writeV_self]

theorem unchanged_flagThen : UnchangedExcept [.regs, .pc] s (s.flagThen x f g) :=
  unchanged_writeV_writeV_dispose _ _ _ _ s _

theorem regsUnchanged_flagThen : RegsUnchangedExcept (fun r => r = x ∨ r = vf) s (s.flagThen x f g) :=
  regsUnchanged_writeV_writeV_dispose _ _ _ _ s (.inr rfl) (.inl rfl) _

/-! ### The meanings -/

theorem exec_addReg : exec (.addReg x y) s =
    .next (((s.writeV x (s.readV x + s.readV y)).writeV vf (carry (s.readV x) (s.readV y))).dispose .advanceOne) := rfl

theorem exec_sub : exec (.sub x y) s =
    .next (s.flagThen x (greater (s.readV x) (s.readV y)) fun u => u.readV x - u.readV y) := rfl

theorem exec_subn : exec (.subn x y) s =
    .next (s.flagThen x (greater (s.readV y) (s.readV x)) fun u => u.readV y - u.readV x) := rfl

theorem exec_shr : exec (.shr x y) s = .next (s.flagThen x (lowBit (s.readV x)) fun u => u.readV x >>> 1) := rfl

theorem exec_shl : exec (.shl x y) s = .next (s.flagThen x (highBit (s.readV x)) fun u => u.readV x <<< 1) := rfl

end

/-- The flag of Va - Vb as a number: 1 where Va is strictly greater (C2). -/
def State.greaterFlag (s : State) (a b : Reg) : Nat := if (s.readV a).toNat > (s.readV b).toNat then 1 else 0

/-- The difference Va - Vb formed after its flag is in VF: an operand that is VF counts as the flag (D7). -/
theorem toNat_difference_after_flag (s : State) (x a b : Reg) :
    ((s.flagThen x (greater (s.readV a) (s.readV b)) fun u => u.readV a - u.readV b).readV x).toNat =
      ((if a = vf then s.greaterFlag a b else (s.readV a).toNat) + 256 -
        (if b = vf then s.greaterFlag a b else (s.readV b).toNat)) % 256 := by
  rw [readV_flagThen_dest, toNat_sub_byte, State.readV_writeV, State.readV_writeV, State.greaterFlag, ← toNat_greater]
  split <;> split <;> rfl

/-! ### The obligations -/

/-- Settles O21: the sum is written to Vx and the carry to VF after it, so VF is the carry whatever x is. -/
theorem addRegistersSetsCarry : Obligations.AddRegistersSetsCarry := by
  refine ⟨decodesAs_low 0x8#4 0x4#4 fun _ => rfl, fun x y s => ⟨_, exec_addReg s y, ?carry, fun hx => ?sum, rfl,
    regsUnchanged_writeV_writeV_dispose _ _ _ _ s (.inl rfl) (.inr rfl) _, unchanged_writeV_writeV_dispose _ _ _ _ s _⟩⟩
  case carry => rw [State.readV_dispose, State.readV_writeV_self, toNat_carry]
  case sum => rw [State.readV_dispose, State.readV_writeV_ne _ _ hx, State.readV_writeV_self, BitVec.toNat_add]

/-- Settles O22: the flag of Vx - Vy, then the difference, whose clauses are the four cases of `toNat_difference_after_flag`. -/
theorem subSetsStrictFlag : Obligations.SubSetsStrictFlag := by
  refine ⟨decodesAs_low 0x8#4 0x5#4 fun _ => rfl, fun x y s => ⟨_, exec_sub s y, ?_⟩⟩
  have hdiff := toNat_difference_after_flag s x x y
  refine ⟨fun hx => ?flag, fun hx hy => ?neither, fun hx hy => ?source, fun hx hy => ?dest, fun hx hy => ?both, rfl,
    regsUnchanged_flagThen s _ _, unchanged_flagThen s _ _⟩
  case flag => rw [readV_flagThen_vf s _ _ hx, toNat_greater]
  case neither => rw [hdiff, if_neg hx, if_neg hy]
  case source => rw [hdiff, if_neg hx, if_pos hy, State.greaterFlag]
  case dest => subst hx; rw [hdiff, if_pos rfl, if_neg hy, State.greaterFlag]
  case both => subst hx hy; rw [hdiff, if_pos rfl, Nat.add_sub_cancel_left]

/-- Settles O23: as O22 with the operands of the difference exchanged. -/
theorem subnSetsStrictFlag : Obligations.SubnSetsStrictFlag := by
  refine ⟨decodesAs_low 0x8#4 0x7#4 fun _ => rfl, fun x y s => ⟨_, exec_subn s y, ?_⟩⟩
  have hdiff := toNat_difference_after_flag s x y x
  refine ⟨fun hx => ?flag, fun hx hy => ?neither, fun hx hy => ?source, fun hx hy => ?dest, fun hx hy => ?both, rfl,
    regsUnchanged_flagThen s _ _, unchanged_flagThen s _ _⟩
  case flag => rw [readV_flagThen_vf s _ _ hx, toNat_greater]
  case neither => rw [hdiff, if_neg hx, if_neg hy]
  case source => rw [hdiff, if_neg hx, if_pos hy, State.greaterFlag]
  case dest => subst hx; rw [hdiff, if_pos rfl, if_neg hy, State.greaterFlag]
  case both => subst hx hy; rw [hdiff, if_pos rfl, Nat.add_sub_cancel_left]

/-- Settles O24: for x = 15 the shift acts on the flag, a value of one bit. -/
theorem shiftRightByOne : Obligations.ShiftRightByOne := by
  refine ⟨decodesAs_low 0x8#4 0x6#4 fun _ => rfl, fun x y s => ⟨⟨_, exec_shr s y, fun hx => ⟨?flag, ?half⟩, fun hx => ?vf, rfl,
    regsUnchanged_flagThen s _ _, unchanged_flagThen s _ _⟩, fun _ => rfl⟩⟩
  case flag => rw [readV_flagThen_vf s _ _ hx, toNat_lowBit]
  case half => rw [readV_flagThen_dest, State.readV_writeV_ne _ _ hx, toNat_shiftRight_one]
  case vf => subst hx; rw [readV_flagThen_dest, State.readV_writeV_self, toNat_shiftRight_one, toNat_lowBit]; omega

/-- Settles O25: for x = 15 the shift acts on the flag, so no bit of the result is lost. -/
theorem shiftLeftByOne : Obligations.ShiftLeftByOne := by
  refine ⟨decodesAs_low 0x8#4 0xE#4 fun _ => rfl, fun x y s => ⟨⟨_, exec_shl s y, fun hx => ⟨?flag, ?double⟩, fun hx => ?vf, rfl,
    regsUnchanged_flagThen s _ _, unchanged_flagThen s _ _⟩, fun _ => rfl⟩⟩
  case flag => rw [readV_flagThen_vf s _ _ hx, toNat_highBit]
  case double => rw [readV_flagThen_dest, State.readV_writeV_ne _ _ hx, toNat_shiftLeft_one]
  case vf =>
    subst hx
    have := (s.readV 15#4).isLt
    rw [readV_flagThen_dest, State.readV_writeV_self, toNat_shiftLeft_one, toNat_highBit]; omega

end Sys2Proof.Machine
end

section
/-! PROOFS. RET, JP, CALL (spec/40_family_0_to_2_cls_ret_jp_call.md R121 to R123, R204, R205): the push and the pop, their two
reports, and a push followed by a pop. -/

namespace Sys2Proof.Machine

/-! ### Frames -/

/-- A part in the list that is the same after all can be dropped from it. -/
theorem unchanged_drop {p : Part} {l : List Part} {s t : State} (h : UnchangedExcept (p :: l) s t) (hp : p.Same s t) :
    UnchangedExcept l s t := by
  intro q hq
  by_cases hqp : q = p
  · exact hqp ▸ hp
  · exact h q (by simp [hqp, hq])

section
variable (s : State)

theorem unchanged_setStack_setPc (k : Vector Word 16) (n : Fin 17) (a : Word) :
    UnchangedExcept [.stack, .sp, .pc] s ((s.setStack k n).setPc a) :=
  unchanged_then (unchanged_setPc _ a) (by simp) (unchanged_mono (by simp) (unchanged_setStack s k n))

theorem unchanged_reportedNoOp (r : Report) : UnchangedExcept [.pc, .report, .mark] s (reportedNoOp r s) :=
  unchanged_then (unchanged_dispose _ .advanceOne) (by simp) (unchanged_mono (by simp) (unchanged_reportAs s r))

/-- An instruction that is reported and passed over (R200). -/
theorem runs_reportedNoOp {i : Instr} {r : Report} (hexec : exec i s = .next (reportedNoOp r s)) :
    Runs i s (fun t => t.report = r ∧ t.faultMark = true ∧ t.pc = s.pc + 2#16 ∧ UnchangedExcept [.pc, .report, .mark] s t) :=
  ⟨_, hexec, rfl, rfl, rfl, unchanged_reportedNoOp s r⟩

end

/-! ### The meanings -/

section
variable (nnn : Addr12) (s : State)

theorem exec_ret : exec .ret s = .next (popAndJump s) := rfl

theorem exec_jp : exec (.jp nnn) s = .next (s.dispose (.jump (zextAddr nnn))) := rfl

theorem exec_call : exec (.call nnn) s = .next (pushAndJump (s.pc + 2#16) (zextAddr nnn) s) := rfl

end

/-! ### The obligations -/

/-- Settles O9: the two cases of the pop. -/
theorem retPopsOrReports : Obligations.RetPopsOrReports := by
  refine ⟨decodesAs_word .ret, fun s => ⟨fun hpos => ?pops, fun hempty => ?reports⟩⟩
  case pops =>
    refine ⟨_, (exec_ret s).trans (congrArg _ (popAndJump_of_pos hpos)), rfl, rfl, ?_⟩
    exact unchanged_drop (unchanged_setStack_setPc s _ _ _) rfl
  case reports => exact runs_reportedNoOp s ((exec_ret s).trans (congrArg _ (popAndJump_of_empty hempty)))

/-- Settles O10: JP is the disposition to nnn alone. -/
theorem jpSetsPc : Obligations.JpSetsPc :=
  ⟨decodesAs_nnn 0x1#4 fun _ => rfl, fun nnn s => ⟨_, exec_jp nnn s, toNat_zextAddr nnn, unchanged_dispose s _⟩⟩

/-- CALL with room on the stack (R123). -/
theorem exec_call_of_lt (nnn : Addr12) {s : State} (h : s.sp.val < 16) :
    exec (.call nnn) s =
      .next ((s.setStack (s.stack.set s.sp.val (s.pc + 2#16) h) ⟨s.sp.val + 1, Nat.succ_lt_succ h⟩).setPc (zextAddr nnn)) :=
  (exec_call nnn s).trans (congrArg _ (pushAndJump_of_lt _ _ h))

/-- Settles O11: the two cases of the push; the entry written is the one at SP. -/
theorem callPushesOrReports : Obligations.CallPushesOrReports := by
  refine ⟨decodesAs_nnn 0x2#4 fun _ => rfl, fun nnn s => ⟨fun hlt => ?pushes, fun hfull => ?reports⟩⟩
  case pushes =>
    refine ⟨_, exec_call_of_lt nnn hlt, rfl, ?top, fun k hk => ?below, toNat_zextAddr nnn,
      unchanged_mono (by simp) (unchanged_setStack_setPc s _ _ _)⟩
    case top => exact Vector.getElem_set_self hlt
    case below => exact Vector.getElem_set_ne hlt k.isLt (Ne.symm hk)
  case reports => exact runs_reportedNoOp s ((exec_call nnn s).trans (congrArg _ (pushAndJump_of_full _ _ hfull)))

/-- Settles O12: the entry RET pops is the one CALL wrote, and SP goes up and down by one. -/
theorem callThenRetReturns : Obligations.CallThenRetReturns := by
  intro nnn s hlt
  refine ⟨_, exec_call_of_lt nnn hlt, _, (exec_ret _).trans (congrArg _ (popAndJump_of_pos (Nat.succ_pos _))), ?pc, ?sp, ?frame⟩
  case pc => exact Vector.getElem_set_self hlt
  case sp => rfl
  case frame =>
    refine unchanged_drop (p := .sp) (unchanged_then (unchanged_setStack_setPc _ _ _ _) (by simp) ?_) rfl
    exact unchanged_mono (by simp) (unchanged_setStack_setPc s _ _ _)

end Sys2Proof.Machine
end

section
/-! PROOFS. JP V0, RND, SKP and SKNP (spec/43_family_9_to_c_sne_ldi_jpv0_rnd.md R152, R153;
spec/45_family_e_keypad_skips.md R170 to R172): the two free values, the random byte and the oracle's answer for a key, stay
free. -/

namespace Sys2Proof.Machine

theorem toNat_zext16 (b : Byte) : (zext16 b).toNat = b.toNat := BitVec.toNat_setWidth_of_le (by decide)

/-- The sum of a 12-bit and an 8-bit number fits in 16 bits (R152). -/
theorem toNat_zextAddr_add_zext16 (nnn : Addr12) (b : Byte) : (zextAddr nnn + zext16 b).toNat = nnn.toNat + b.toNat := by
  have := nnn.isLt
  have := b.isLt
  rw [BitVec.toNat_add, toNat_zextAddr, toNat_zext16]; omega

/-! ### The meanings -/

section
variable (x : Reg) (kk : Byte) (nnn : Addr12) (s : State)

theorem exec_jpV0 : exec (.jpV0 nnn) s = .next (s.dispose (.jump (zextAddr nnn + zext16 (s.readV 0#4)))) := rfl

theorem exec_rnd : exec (.rnd x kk) s =
    .next ((s.drew.writeV x (kk &&& Config.randomByte s.draws)).dispose .advanceOne) := rfl

theorem exec_skp : exec (.skp x) s = .next (skipOnKey true x s) := rfl

theorem exec_sknp : exec (.sknp x) s = .next (skipOnKey false x s) := rfl

end

/-! ### An answer of an outside agent taken -/

section
variable (s : State)

theorem unchanged_drew_writeV_dispose (x : Reg) (b : Byte) (d : Disposition) :
    UnchangedExcept [.regs, .draws, .pc] s ((s.drew.writeV x b).dispose d) :=
  unchanged_then (unchanged_writeV_dispose x b d _) (by simp) (unchanged_mono (by simp) (unchanged_drew s))

theorem regsUnchanged_drew_writeV_dispose (x : Reg) (b : Byte) (d : Disposition) :
    RegsUnchangedExcept (· = x) s ((s.drew.writeV x b).dispose d) :=
  regsUnchanged_writeV_dispose x b d s.drew

theorem unchanged_drew_dispose (d : Disposition) : UnchangedExcept [.pc, .draws] s (s.drew.dispose d) :=
  unchanged_then (unchanged_dispose _ d) (by simp) (unchanged_mono (by simp) (unchanged_drew s))

end

/-- The query is for the key the register names, where it names one (R170). -/
theorem keyAnswer_eq {s : State} {x : Reg} {k : BitVec 4} (hk : k.toNat = (s.readV x).toNat) :
    keyAnswer s x = Config.keyPressed s.draws k := by
  have hkey : (s.readV x).setWidth 4 = k := by
    apply BitVec.eq_of_toNat_eq
    rw [BitVec.toNat_setWidth, ← hk, Nat.mod_eq_of_lt k.isLt]
  rw [keyAnswer, hkey]

/-- A key skip on a logical key, of either sense: it is taken exactly if the oracle's answer is the one wanted. -/
theorem runs_skipOnKey {i : Instr} {want : Bool} {x : Reg} {s : State} (hexec : exec i s = .next (skipOnKey want x s))
    (hkey : (s.readV x).toNat ≤ 0x0F) :
    Runs i s (fun t =>
      (∀ k : BitVec 4, k.toNat = (s.readV x).toNat →
        (Config.keyPressed s.draws k = want → t.pc = s.pc + 4#16) ∧ (Config.keyPressed s.draws k = !want → t.pc = s.pc + 2#16)) ∧
      t.draws = s.draws + 1 ∧ UnchangedExcept [.pc, .draws] s t) := by
  rw [skipOnKey_of_le want hkey] at hexec
  refine ⟨_, hexec, fun k hk => ?answer, rfl, unchanged_drew_dispose s _⟩
  case answer =>
    rw [keyAnswer_eq hk, State.dispose_pc]
    exact ⟨fun h => pcAfter_skipIf_of_true _ (by rw [h, beq_self_eq_true]),
      fun h => pcAfter_skipIf_of_false _ (by rw [h]; cases want <;> rfl)⟩

/-- A key skip on a value that is no logical key (R172). -/
theorem runs_skipOnKey_report {i : Instr} {want : Bool} {x : Reg} {s : State} (hexec : exec i s = .next (skipOnKey want x s))
    (hkey : 0x0F < (s.readV x).toNat) :
    Runs i s (fun t => t.report = .keyRange (s.readV x) s.pc ∧ t.faultMark = true ∧ t.pc = s.pc + 2#16 ∧
      UnchangedExcept [.pc, .report, .mark] s t) :=
  runs_reportedNoOp s (hexec.trans (congrArg _ (skipOnKey_of_gt want hkey)))

/-! ### The obligations -/

/-- Settles O27: JP V0 is the disposition to the sum alone. -/
theorem jumpWithOffset : Obligations.JumpWithOffset :=
  ⟨decodesAs_nnn 0xB#4 fun _ => rfl, fun nnn s =>
    ⟨_, exec_jpV0 nnn s, toNat_zextAddr_add_zext16 nnn (s.readV 0#4), unchanged_dispose s _⟩⟩

/-- Settles O28: one draw, one register write of the masked byte. -/
theorem randomByteMasked : Obligations.RandomByteMasked := by
  refine ⟨decodesAs_xkk 0xC#4 fun _ => rfl, fun x kk s => ⟨_, exec_rnd x kk s, fun k => ?masked, rfl, rfl,
    regsUnchanged_drew_writeV_dispose s x _ _, unchanged_drew_writeV_dispose s x _ _⟩⟩
  case masked => rw [State.readV_dispose, State.readV_writeV_self, BitVec.getLsbD_and]

/-- Settles O31: the key skip that wants the key pressed. -/
theorem skipIfKeyPressed : Obligations.SkipIfKeyPressed :=
  ⟨decodesAs_byte 0xE#4 0x9E#8 fun _ => rfl, fun x s => ⟨runs_skipOnKey (exec_skp x s), runs_skipOnKey_report (exec_skp x s)⟩⟩

/-- Settles O32: the key skip that wants the key not pressed. -/
theorem skipIfKeyNotPressed : Obligations.SkipIfKeyNotPressed :=
  ⟨decodesAs_byte 0xE#4 0xA1#8 fun _ => rfl, fun x s => ⟨runs_skipOnKey (exec_sknp x s), runs_skipOnKey_report (exec_sknp x s)⟩⟩

end Sys2Proof.Machine
end

section
/-! PROOFS. The key wait, the timers' writers and the two writers of I (spec/46_family_f_timers_index_memory.md R181 to R185). -/

namespace Sys2Proof.Machine

/-! ### The meanings -/

section
variable (x : Reg) (s : State)

theorem exec_ldVxK_of_answers {s : State} (h : s.oracleAnswers = true) :
    exec (.ldVxK x) s = .next ((s.drew.writeV x (zext8 (Config.keyWait s.draws))).dispose .advanceOne) := if_pos h

theorem exec_ldVxK_of_silent {s : State} (h : s.oracleAnswers = false) : exec (.ldVxK x) s = .fault .keyWaitUnanswered :=
  if_neg (by simp [h])

theorem exec_ldDtVx : exec (.ldDtVx x) s = .next ((s.setDt (s.readV x)).dispose .advanceOne) := rfl

theorem exec_ldStVx : exec (.ldStVx x) s = .next ((s.setSt (s.readV x)).dispose .advanceOne) := rfl

theorem exec_addI : exec (.addI x) s = .next ((s.setI (s.i + zext16 (s.readV x))).dispose .advanceOne) := rfl

theorem exec_ldF : exec (.ldF x) s = .next ((s.setI (zext16 (s.readV x) * 5#16)).dispose .advanceOne) := rfl

theorem toNat_zext8 (k : BitVec 4) : (zext8 k).toNat = k.toNat := BitVec.toNat_setWidth_of_le (by decide)

theorem unchanged_setDt_dispose (b : Byte) (d : Disposition) : UnchangedExcept [.dt, .pc] s ((s.setDt b).dispose d) :=
  unchanged_then (unchanged_dispose _ d) (by simp) (unchanged_mono (by simp) (unchanged_setDt s b))

theorem unchanged_setSt_dispose (b : Byte) (d : Disposition) : UnchangedExcept [.st, .pc] s ((s.setSt b).dispose d) :=
  unchanged_then (unchanged_dispose _ d) (by simp) (unchanged_mono (by simp) (unchanged_setSt s b))

end

/-! ### A cycle that fetches an instruction -/

section
variable {s : State} {i : Instr}

theorem Fetches.not_halted (h : Fetches s i) : s.halted = false := h.1.1

theorem Fetches.pc_le (h : Fetches s i) : s.pc.toNat ≤ 0x0FFE := h.1.2

theorem Fetches.decodes (h : Fetches s i) : decodeWord (s.mem.readWord s.pc.toNat) = some i := h.2

end

/-! ### The obligations -/

/-- Settles O34: one answer, one register write; the Step's one tick comes after the wait (R214). -/
theorem keyWaitStoresTheAnswer : Obligations.KeyWaitStoresTheAnswer := by
  refine ⟨decodesAs_byte 0xF#4 0x0A#8 fun _ => rfl, fun x s hanswers => ⟨?runs, fun hfetch => ?cycle⟩⟩
  case runs =>
    have hkey : (((s.drew.writeV x (zext8 (Config.keyWait s.draws))).dispose .advanceOne).readV x).toNat =
        (Config.keyWait s.draws).toNat := by rw [State.readV_dispose, State.readV_writeV_self, toNat_zext8]
    refine ⟨_, exec_ldVxK_of_answers x hanswers, hkey, ?range, rfl, rfl, regsUnchanged_drew_writeV_dispose s x _ _,
      unchanged_drew_writeV_dispose s x _ _⟩
    case range => rw [hkey]; exact Nat.le_of_lt_succ (Config.keyWait s.draws).isLt
  case cycle =>
    have hexec := exec_ldVxK_of_answers (s := s.beginCycle) x hanswers
    exact ⟨_, step_eq_tick_of_exec hfetch hexec hfetch.not_halted, toNat_tick s.dt, toNat_tick s.st⟩

/-- Settles O35: the meaning's fault is the Step's. -/
theorem keyWaitWithoutAnswerNeverReturns : Obligations.KeyWaitWithoutAnswerNeverReturns := by
  refine fun x s hsilent => ⟨exec_ldVxK_of_silent x hsilent, fun hfetch => ?_⟩
  rw [step_of_instr hfetch.not_halted hfetch.pc_le hfetch.decodes, exec_ldVxK_of_silent x (s := s.beginCycle) hsilent]; rfl

/-- Settles O36: the tick decrements the DT just written. -/
theorem setDelayTimer : Obligations.SetDelayTimer := by
  refine ⟨decodesAs_byte 0xF#4 0x15#8 fun _ => rfl, fun x s => ⟨?runs, fun hfetch => ?cycle⟩⟩
  case runs => exact ⟨_, exec_ldDtVx x s, rfl, rfl, unchanged_setDt_dispose s _ _⟩
  case cycle => exact ⟨_, step_eq_tick_of_exec hfetch (exec_ldDtVx x s.beginCycle) hfetch.not_halted, toNat_tick (s.readV x)⟩

/-- Settles O37: the tick decrements the ST just written. -/
theorem setSoundTimer : Obligations.SetSoundTimer := by
  refine ⟨decodesAs_byte 0xF#4 0x18#8 fun _ => rfl, fun x s => ⟨?runs, fun hfetch => ?cycle⟩⟩
  case runs => exact ⟨_, exec_ldStVx x s, rfl, rfl, unchanged_setSt_dispose s _ _⟩
  case cycle => exact ⟨_, step_eq_tick_of_exec hfetch (exec_ldStVx x s.beginCycle) hfetch.not_halted, toNat_tick (s.readV x)⟩

/-- Settles O38: the sum of words is the sum modulo 65536. -/
theorem addToIndex : Obligations.AddToIndex := by
  refine ⟨decodesAs_byte 0xF#4 0x1E#8 fun _ => rfl, fun x s => ⟨_, exec_addI x s, ?sum, rfl, unchanged_setI_dispose _ _ s⟩⟩
  case sum => rw [State.dispose_i, State.setI_i, BitVec.toNat_add, toNat_zext16]

/-- Settles O39: five times an 8-bit number fits in 16 bits. -/
theorem indexOfGlyph : Obligations.IndexOfGlyph := by
  refine ⟨decodesAs_byte 0xF#4 0x29#8 fun _ => rfl, fun x s => ⟨_, exec_ldF x s, ?product, rfl, unchanged_setI_dispose _ _ s⟩⟩
  case product =>
    have hproduct : (zext16 (s.readV x) * 5#16).toNat = (s.readV x).toNat * 5 := by
      have := (s.readV x).isLt
      rw [BitVec.toNat_mul, toNat_zext16, show (5#16).toNat = 5 from rfl]; omega
    exact hproduct

end Sys2Proof.Machine
end

section
/-! PROOFS. The accesses at I (spec/46_family_f_timers_index_memory.md R186 to R190, spec/20_memory.md R66, R67): each of the three
instructions inside memory, the round trip of a block, and the address fault of all four instructions that access memory. -/

namespace Sys2Proof.Machine

/-! ### The meanings, inside memory and outside -/

section
variable {s : State} (x y : Reg) (n : BitVec 4)

theorem exec_ldB_of_le (h : s.i.toNat + 2 ≤ 0x0FFF) :
    exec (.ldB x) s = .next ((s.storeAtI (bcdDigits (s.readV x))).dispose .advanceOne) :=
  withRange_of_ok _ (.inr (by omega))

theorem exec_storeRegs_of_le (h : s.i.toNat + x.toNat ≤ 0x0FFF) :
    exec (.storeRegs x) s = .next ((s.storeAtI (s.block x)).dispose .advanceOne) :=
  withRange_of_ok _ (.inr (by simp only [blockLen]; omega))

theorem exec_loadRegs_of_le (h : s.i.toNat + x.toNat ≤ 0x0FFF) :
    exec (.loadRegs x) s = .next ((s.setRegs (s.loadedBlock x)).dispose .advanceOne) :=
  withRange_of_ok _ (.inr (by simp only [blockLen]; omega))

theorem exec_ldB_of_gt (h : 0x0FFF < s.i.toNat + 2) : exec (.ldB x) s = .next (s.addressFault (max s.i.toNat 0x1000)) :=
  withRange_of_out _ (by omega)

theorem exec_storeRegs_of_gt (h : 0x0FFF < s.i.toNat + x.toNat) :
    exec (.storeRegs x) s = .next (s.addressFault (max s.i.toNat 0x1000)) :=
  withRange_of_out _ (by simp only [blockLen]; omega)

theorem exec_loadRegs_of_gt (h : 0x0FFF < s.i.toNat + x.toNat) :
    exec (.loadRegs x) s = .next (s.addressFault (max s.i.toNat 0x1000)) :=
  withRange_of_out _ (by simp only [blockLen]; omega)

theorem exec_drw_of_gt (hn : n ≠ 0#4) (h : 0x0FFF < s.i.toNat + n.toNat - 1) :
    exec (.drw x y n) s = .next (s.addressFault (max s.i.toNat 0x1000)) := by
  have hn' : n.toNat ≠ 0 := fun e => hn (BitVec.eq_of_toNat_eq e)
  exact withRange_of_out _ (by omega)

end

/-! ### What a store leaves in memory and a block holds -/

section
variable (s : State) (x : Reg) (bs : List Byte)

theorem read_storeAtI_of_lt {k : Nat} (hk : k < bs.length) : (s.storeAtI bs).mem.read (s.i.toNat + k) = bs.getD k 0 := by
  rw [State.storeAtI_mem, Memory.read_writeList, if_pos (by omega), Nat.add_sub_cancel_left]

theorem read_storeAtI_of_outside {a : Nat} (ha : a < s.i.toNat ∨ s.i.toNat + bs.length ≤ a) :
    (s.storeAtI bs).mem.read a = s.mem.read a := by
  rw [State.storeAtI_mem, Memory.read_writeList, if_neg (by omega)]

/-- A digit of Vx as a number, in the byte LD B stores it in. -/
theorem toNat_read_bcd {d k : Nat} (hk : k < 3) (hd : d ≤ (s.readV x).toNat)
    (hget : (bcdDigits (s.readV x)).getD k 0 = BitVec.ofNat 8 d) :
    ((s.storeAtI (bcdDigits (s.readV x))).mem.read (s.i.toNat + k)).toNat = d := by
  have := (s.readV x).isLt
  rw [read_storeAtI_of_lt s _ hk, hget, BitVec.toNat_ofNat, Nat.mod_eq_of_lt (by omega)]

theorem length_block : (s.block x).length = x.toNat + 1 := by
  have := x.isLt
  rw [State.block, List.length_take, Vector.length_toList, blockLen]; omega

theorem getD_block {r : Reg} (h : r.toNat ≤ x.toNat) : (s.block x).getD r.toNat 0 = s.readV r := by
  have hr : r.toNat < (s.block x).length := by rw [length_block]; omega
  rw [List.getD_eq_getElem _ _ hr]
  simp [State.block, State.readV]

theorem read_store_block {r : Reg} (h : r.toNat ≤ x.toNat) :
    (s.storeAtI (s.block x)).mem.read (s.i.toNat + r.toNat) = s.readV r := by
  rw [read_storeAtI_of_lt s _ (by rw [length_block]; omega), getD_block s x h]

theorem unchanged_storeAtI_dispose (d : Disposition) : UnchangedExcept [.mem, .pc] s ((s.storeAtI bs).dispose d) :=
  unchanged_then (unchanged_dispose _ d) (by simp) (unchanged_mono (by simp) (unchanged_storeAtI s bs))

theorem unchanged_setRegs_dispose (v : Vector Byte 16) (d : Disposition) : UnchangedExcept [.regs, .pc] s ((s.setRegs v).dispose d) :=
  unchanged_then (unchanged_dispose _ d) (by simp) (unchanged_mono (by simp) (unchanged_setRegs s v))

theorem pc_setRegs_dispose (v : Vector Byte 16) : ((s.setRegs v).dispose .advanceOne).pc = s.pc + 2#16 := rfl

theorem lt_blockLen_iff (r : Reg) : r.toNat < blockLen x ↔ r.toNat ≤ x.toNat := Nat.lt_succ_iff

theorem readV_loaded_of_le {r : Reg} (h : r.toNat ≤ x.toNat) :
    ((s.setRegs (s.loadedBlock x)).dispose .advanceOne).readV r = s.mem.read (s.i.toNat + r.toNat) := by
  rw [State.readV_dispose, State.readV_loadedBlock, if_pos ((lt_blockLen_iff x r).mpr h)]

theorem regsUnchanged_loaded :
    RegsUnchangedExcept (fun r => r.toNat ≤ x.toNat) s ((s.setRegs (s.loadedBlock x)).dispose .advanceOne) := by
  intro r hr
  rw [State.readV_dispose, State.readV_loadedBlock, if_neg (by rwa [lt_blockLen_iff])]

end

/-! ### The obligations -/

/-- Settles O40: the three digits are the block stored at I. -/
theorem bcdStoresThreeDigits : Obligations.BcdStoresThreeDigits := by
  refine ⟨decodesAs_byte 0xF#4 0x33#8 fun _ => rfl, fun x s hrange => ⟨_, exec_ldB_of_le x hrange, ?hundreds, ?tens, ?ones,
    fun a ha => ?others, rfl, unchanged_storeAtI_dispose s _ _⟩⟩
  case hundreds => exact toNat_read_bcd s x (k := 0) (by omega) (by omega) rfl
  case tens => exact toNat_read_bcd s x (k := 1) (by omega) (by omega) rfl
  case ones => exact toNat_read_bcd s x (k := 2) (by omega) (by omega) rfl
  case others => exact read_storeAtI_of_outside s _ (ha.imp_right Nat.succ_le_of_lt)

/-- Settles O41: the block of V0 to Vx is stored at I. -/
theorem storeRegisterBlock : Obligations.StoreRegisterBlock := by
  refine ⟨decodesAs_byte 0xF#4 0x55#8 fun _ => rfl, fun x s hrange => ⟨_, exec_storeRegs_of_le x hrange,
    fun r hr => read_store_block s x hr, fun a ha => ?others, rfl, unchanged_storeAtI_dispose s _ _⟩⟩
  case others => exact read_storeAtI_of_outside s _ (by rw [length_block]; omega)

/-- Settles O42: the registers up to Vx are those of the block at I. -/
theorem loadRegisterBlock : Obligations.LoadRegisterBlock :=
  ⟨decodesAs_byte 0xF#4 0x65#8 fun _ => rfl, fun x s hrange => ⟨_, exec_loadRegs_of_le x hrange,
    fun _ hr => readV_loaded_of_le s x hr, pc_setRegs_dispose s _, regsUnchanged_loaded s x, unchanged_setRegs_dispose s _ _⟩⟩

/-- Settles O43: the load reads, at the same I, the bytes the store wrote. -/
theorem storeThenLoadRestoresTheBlock : Obligations.StoreThenLoadRestoresTheBlock := by
  refine fun x s hrange => ⟨_, exec_storeRegs_of_le x hrange, fun v => ?_⟩
  let t := ((s.storeAtI (s.block x)).dispose .advanceOne).setRegs v
  refine ⟨_, exec_loadRegs_of_le (s := t) x hrange, fun r hr => ?_⟩
  exact (readV_loaded_of_le t x hr).trans (read_store_block s x hr)

/-- Settles O44: the state after the address fault, written out. -/
theorem outOfRangeAccessHalts : Obligations.OutOfRangeAccessHalts :=
  fun x y n _ => ⟨exec_drw_of_gt x y n, exec_ldB_of_gt x, fun h => ⟨exec_storeRegs_of_gt x h, exec_loadRegs_of_gt x h⟩⟩

end Sys2Proof.Machine
end

section
/-! PROOFS. DRW (spec/44_family_d_draw.md R160 to R162): what the blit does in terms of the sprite's bits, one draw, two draws. -/

namespace Sys2Proof.Machine

/-! ### The blit in terms of sprite bits -/

section
variable (s : State) (x y : Reg) (n : Nat)

/-- The sprite bit on a pixel is a bit of the block at I, in the sprite's rows and columns, and 0 elsewhere (R160). -/
theorem spriteBit_eq (r : Fin 32) (c : Fin 64) :
    s.spriteBit x y n r c =
      if ((s.readV y).toNat % 32 ≤ r.val ∧ r.val < (s.readV y).toNat % 32 + n) ∧
          (s.readV x).toNat % 64 ≤ c.val ∧ c.val < (s.readV x).toNat % 64 + 8 then
        ((s.bytesAtI n).getD (r.val - (s.readV y).toNat % 32) 0).getLsbD (7 - (c.val - (s.readV x).toNat % 64))
      else false := by
  unfold State.spriteBit
  split
  · next h =>
    rw [State.bytesAtI, Memory.getD_readList _ _ _ _ (by omega)]
    simp only [h, and_self, decide_true, Bool.true_and]
  · next h => simp only [← and_assoc] at h ⊢; simp only [h, decide_false, Bool.false_and]

theorem framePixel_blit (r : Fin 32) (c : Fin 64) :
    framePixel (s.blit x y n).1 r c = (s.pixel r c ^^ s.spriteBit x y n r c) := by
  rw [State.blit, blitRows_pixel, State.bytesAtI, Memory.length_readList, ← State.bytesAtI, spriteBit_eq, pixel_eq]
  split
  · rfl
  · rw [Bool.xor_false]

theorem blit_hit_iff_collides : (s.blit x y n).2 = true ↔ s.collides x y n := by
  rw [State.blit, blitRows_hit, State.bytesAtI, Memory.length_readList, ← State.bytesAtI]
  simp only [Bool.false_eq_true, false_or, State.collides, spriteBit_eq, pixel_eq, Bool.if_false_right, Bool.and_eq_true,
    decide_eq_true_eq, and_assoc]

/-! ### One draw -/

/-- The state a draw of `n` rows in memory leaves. -/
def State.afterDraw : State :=
  ((s.drawn (s.blit x y n).1).writeV vf (flag (s.blit x y n).2)).dispose .advanceOne

theorem exec_drw_of_range {s : State} {n : BitVec 4} (h : RangeInMemory s n.toNat) :
    exec (.drw x y n) s = .next (s.afterDraw x y n.toNat) := withRange_of_ok _ h

theorem pixel_afterDraw (r : Fin 32) (c : Fin 64) :
    (s.afterDraw x y n).pixel r c = (s.pixel r c ^^ s.spriteBit x y n r c) := framePixel_blit s x y n r c

theorem readV_vf_afterDraw : (s.afterDraw x y n).readV vf = flag (s.blit x y n).2 := State.readV_writeV_self _ _ _

theorem flag_eq_one_iff (c : Bool) : flag c = 1#8 ↔ c = true := by cases c <;> simp [flag]

theorem vf_afterDraw_eq_one_iff : (s.afterDraw x y n).readV vf = 1#8 ↔ s.collides x y n := by
  rw [readV_vf_afterDraw, flag_eq_one_iff, blit_hit_iff_collides]

theorem vf_afterDraw_of_not_collides (h : ¬s.collides x y n) : (s.afterDraw x y n).readV vf = 0#8 := by
  rw [← blit_hit_iff_collides, Bool.not_eq_true] at h
  rw [readV_vf_afterDraw, h]; rfl

theorem regsUnchanged_afterDraw : RegsUnchangedExcept (· = vf) s (s.afterDraw x y n) :=
  regsUnchanged_writeV_dispose vf _ _ (s.drawn (s.blit x y n).1)

theorem unchanged_afterDraw : UnchangedExcept [.regs, .fb, .display, .pc] s (s.afterDraw x y n) :=
  unchanged_then (unchanged_writeV_dispose vf _ _ _) (by simp) (unchanged_mono (by simp) (unchanged_drawn s _))

/-- A second draw with the same operand values has the same sprite bits: the first left I and memory alone. -/
theorem spriteBit_afterDraw {x y : Reg} {n : Nat} (hx : (s.afterDraw x y n).readV x = s.readV x)
    (hy : (s.afterDraw x y n).readV y = s.readV y) (r : Fin 32) (c : Fin 64) :
    (s.afterDraw x y n).spriteBit x y n r c = s.spriteBit x y n r c := by
  unfold State.spriteBit
  rw [hx, hy]; rfl

end

/-! ### The obligations -/

/-- Settles O29: the pixels and the flag are those of the blit. -/
theorem drawXorsTheSprite : Obligations.DrawXorsTheSprite := by
  refine ⟨decodesAs_xyn 0xD#4 fun _ => rfl, fun x y n s hrange => ⟨_, exec_drw_of_range x y hrange, pixel_afterDraw s x y _,
    (vf_afterDraw_eq_one_iff s x y _).mpr, vf_afterDraw_of_not_collides s x y _, rfl, rfl, regsUnchanged_afterDraw s x y _,
    unchanged_afterDraw s x y _⟩⟩

/-- Settles O30: the same sprite bits XORed twice cancel, and a sprite bit of 1 falls on a pixel of 1 the second time exactly where
it fell on a pixel of 0 the first time. -/
theorem drawTwiceRestoresTheFrame : Obligations.DrawTwiceRestoresTheFrame := by
  intro x y n s hrange
  refine ⟨_, exec_drw_of_range x y hrange, fun hx hy => ⟨_, exec_drw_of_range x y hrange, ?frame, ?flag⟩⟩
  case frame =>
    refine frame_ext fun r c => ?_
    rw [← pixel_eq, pixel_afterDraw, spriteBit_afterDraw s hx hy, pixel_afterDraw, Bool.xor_assoc, Bool.xor_self, Bool.xor_false,
      pixel_eq]
  case flag =>
    rw [vf_afterDraw_eq_one_iff]
    refine exists_congr fun r => exists_congr fun c => ?_
    rw [spriteBit_afterDraw s hx hy, pixel_afterDraw]
    refine and_congr_right fun hbit => ?_
    rw [hbit, Bool.xor_true, Bool.not_eq_true']

end Sys2Proof.Machine
end

section
/-! PROOFS. The opcode map (spec/30_encoding.md R97, R98, R104): its rows admit exactly the words the decoder accepts, and no word
satisfies two of them. -/

namespace Sys2Proof.Machine

/-! ### A row's words decode -/

/-- Every word the row admits is an instruction for the decoder. -/
def RowDecodes (r : OpRow) : Prop := ∀ w : Word, r.matches w = true → (decodeWord w).isSome = true

theorem rowDecodes {mask bits : Word} {g : Word → Instr} (h : DecodesAs mask bits g) : RowDecodes ⟨mask, bits⟩ := by
  intro w hw
  have hmatch : w &&& mask = bits := by simpa [OpRow.matches] using hw
  rw [(h w).mp hmatch]; rfl

/-- The rows of the families 0x0 to 0x7, each by its instruction's own statement; the next two likewise. -/
theorem rowDecodes_controlRows_immediateRows : ∀ r ∈ controlRows ++ immediateRows, RowDecodes r := by
  simp only [controlRows, immediateRows, List.cons_append, List.nil_append, List.forall_mem_cons]
  exact ⟨rowDecodes clsClearsEveryPixel.1, rowDecodes retPopsOrReports.1, rowDecodes jpSetsPc.1, rowDecodes callPushesOrReports.1,
    rowDecodes skipIfEqualImmediate.1, rowDecodes skipIfUnequalImmediate.1, rowDecodes skipIfRegistersEqual.1,
    rowDecodes loadImmediate.1, rowDecodes addImmediateWraps.1, List.forall_mem_nil _⟩

theorem rowDecodes_aluRows : ∀ r ∈ aluRows, RowDecodes r := by
  obtain ⟨hor, hand, hxor, _⟩ := logicOperations
  simp only [aluRows, List.forall_mem_cons]
  exact ⟨rowDecodes copyRegister.1, rowDecodes hor, rowDecodes hand, rowDecodes hxor, rowDecodes addRegistersSetsCarry.1,
    rowDecodes subSetsStrictFlag.1, rowDecodes shiftRightByOne.1, rowDecodes subnSetsStrictFlag.1, rowDecodes shiftLeftByOne.1,
    List.forall_mem_nil _⟩

theorem rowDecodes_indexRows_to_familyFRows : ∀ r ∈ indexRows ++ drawRows ++ keypadRows ++ familyFRows, RowDecodes r := by
  simp only [indexRows, drawRows, keypadRows, familyFRows, List.cons_append, List.nil_append, List.forall_mem_cons]
  exact ⟨rowDecodes skipIfRegistersDiffer.1, rowDecodes loadIndex.1, rowDecodes jumpWithOffset.1, rowDecodes randomByteMasked.1,
    rowDecodes drawXorsTheSprite.1, rowDecodes skipIfKeyPressed.1, rowDecodes skipIfKeyNotPressed.1, rowDecodes readDelayTimer.1,
    rowDecodes keyWaitStoresTheAnswer.1, rowDecodes setDelayTimer.1, rowDecodes setSoundTimer.1, rowDecodes addToIndex.1,
    rowDecodes indexOfGlyph.1, rowDecodes bcdStoresThreeDigits.1, rowDecodes storeRegisterBlock.1, rowDecodes loadRegisterBlock.1,
    List.forall_mem_nil _⟩

theorem rowDecodes_of_mem_opcodeMap {r : OpRow} (hr : r ∈ opcodeMap) : RowDecodes r := by
  have hsplit : opcodeMap = (controlRows ++ immediateRows) ++ aluRows ++ (indexRows ++ drawRows ++ keypadRows ++ familyFRows) := rfl
  rw [hsplit, List.mem_append, List.mem_append] at hr
  obtain (hr | hr) | hr := hr
  · exact rowDecodes_controlRows_immediateRows r hr
  · exact rowDecodes_aluRows r hr
  · exact rowDecodes_indexRows_to_familyFRows r hr

/-! ### An instruction's word satisfies a row -/

theorem wordWf_encode (i : Instr) : wordWf (encode i) = true := by
  cases i with
  | cls => exact Laws.EncodedWordMatches.cls
  | ret => exact Laws.EncodedWordMatches.ret
  | jp nnn => exact Laws.EncodedWordMatches.jp nnn
  | call nnn => exact Laws.EncodedWordMatches.call nnn
  | seImm x kk => exact Laws.EncodedWordMatches.seImm x kk
  | sneImm x kk => exact Laws.EncodedWordMatches.sneImm x kk
  | seReg x y => exact Laws.EncodedWordMatches.seReg x y
  | ldImm x kk => exact Laws.EncodedWordMatches.ldImm x kk
  | addImm x kk => exact Laws.EncodedWordMatches.addImm x kk
  | ldReg x y => exact Laws.EncodedWordMatches.ldReg x y
  | orReg x y => exact Laws.EncodedWordMatches.orReg x y
  | andReg x y => exact Laws.EncodedWordMatches.andReg x y
  | xorReg x y => exact Laws.EncodedWordMatches.xorReg x y
  | addReg x y => exact Laws.EncodedWordMatches.addReg x y
  | sub x y => exact Laws.EncodedWordMatches.sub x y
  | shr x y => exact Laws.EncodedWordMatches.shr x y
  | subn x y => exact Laws.EncodedWordMatches.subn x y
  | shl x y => exact Laws.EncodedWordMatches.shl x y
  | sneReg x y => exact Laws.EncodedWordMatches.sneReg x y
  | ldI nnn => exact Laws.EncodedWordMatches.ldI nnn
  | jpV0 nnn => exact Laws.EncodedWordMatches.jpV0 nnn
  | rnd x kk => exact Laws.EncodedWordMatches.rnd x kk
  | drw x y n => exact Laws.EncodedWordMatches.drw x y n
  | skp x => exact Laws.EncodedWordMatches.skp x
  | sknp x => exact Laws.EncodedWordMatches.sknp x
  | ldVxDt x => exact Laws.EncodedWordMatches.ldVxDt x
  | ldVxK x => exact Laws.EncodedWordMatches.ldVxK x
  | ldDtVx x => exact Laws.EncodedWordMatches.ldDtVx x
  | ldStVx x => exact Laws.EncodedWordMatches.ldStVx x
  | addI x => exact Laws.EncodedWordMatches.addI x
  | ldF x => exact Laws.EncodedWordMatches.ldF x
  | ldB x => exact Laws.EncodedWordMatches.ldB x
  | storeRegs x => exact Laws.EncodedWordMatches.storeRegs x
  | loadRegs x => exact Laws.EncodedWordMatches.loadRegs x

/-- The nibble decoder and the masks of R98 accept the same words. -/
theorem isSome_decodeWord_eq_wordWf (w : Word) : (decodeWord w).isSome = wordWf w := by
  rw [Bool.eq_iff_iff]
  constructor
  · intro h
    obtain ⟨i, hi⟩ := Option.isSome_iff_exists.mp h
    rw [← encode_of_decodeWord hi]; exact wordWf_encode i
  · intro h
    obtain ⟨r, hr, hw⟩ := List.any_eq_true.mp h
    exact rowDecodes_of_mem_opcodeMap hr w hw

theorem decodeWord_eq_none_of_not_wordWf {w : Word} (h : wordWf w = false) : decodeWord w = none := by
  rw [← isSome_decodeWord_eq_wordWf] at h
  exact Option.isNone_iff_eq_none.mp (Option.isSome_eq_false_iff.mp h)

/-! ### The rows exclude one another -/

/-- Rows that differ in a bit both masks test admit no common word (R97). -/
theorem not_matches_both {r q : OpRow} (h : rowsDisjoint r q = true) (w : Word) : ¬(r.matches w = true ∧ q.matches w = true) := by
  rintro ⟨hr, hq⟩
  have hr : w &&& r.mask = r.bits := by simpa [OpRow.matches] using hr
  have hq : w &&& q.mask = q.bits := by simpa [OpRow.matches] using hq
  have hne : r.bits &&& q.mask ≠ q.bits &&& r.mask := by simpa [rowsDisjoint] using h
  exact hne (by rw [← hr, ← hq, BitVec.and_assoc, BitVec.and_assoc, BitVec.and_comm r.mask])

/-- Settles O6: the two directions of `isSome_decodeWord_eq_wordWf`; of the 34 rows every two differ in a bit both masks test. -/
theorem decoderAcceptsTheOpcodeMap : Obligations.DecoderAcceptsTheOpcodeMap := by
  refine ⟨isSome_decodeWord_eq_wordWf, rfl, ?disjoint⟩
  case disjoint =>
    have hpairs : opcodeMap.Pairwise fun r q => rowsDisjoint r q = true := by decide
    exact hpairs.imp not_matches_both

end Sys2Proof.Machine
end

section
/-! PROOFS. What an instruction may write (spec/10_state.md R22, R23, R26 to R31; spec/20_memory.md R61, R67): the frames of the
operations with an error case, and from them the table for all instructions. -/

namespace Sys2Proof.Machine

/-! ### The operations with an error case -/

section
variable (s : State)

theorem unchanged_popAndJump : UnchangedExcept [.pc, .sp, .report, .mark] s (popAndJump s) := by
  by_cases h : s.sp.val = 0
  · rw [popAndJump_of_empty h]
    exact unchanged_mono (by simp) (unchanged_reportedNoOp s _)
  · rw [popAndJump_of_pos (Nat.pos_of_ne_zero h)]
    exact unchanged_mono (by simp) (unchanged_drop (unchanged_setStack_setPc s _ _ _) rfl)

theorem unchanged_pushAndJump (ret target : Word) :
    UnchangedExcept [.pc, .sp, .stack, .report, .mark] s (pushAndJump ret target s) := by
  by_cases h : s.sp.val < 16
  · rw [pushAndJump_of_lt _ _ h]
    exact unchanged_mono (by simp) (unchanged_setStack_setPc s _ _ _)
  · rw [pushAndJump_of_full _ _ (by omega)]
    exact unchanged_mono (by simp) (unchanged_reportedNoOp s _)

theorem unchanged_skipOnKey (want : Bool) (x : Reg) : UnchangedExcept [.pc, .draws, .report, .mark] s (skipOnKey want x s) := by
  by_cases h : (s.readV x).toNat ≤ 0x0F
  · rw [skipOnKey_of_le _ h]
    exact unchanged_mono (by simp) (unchanged_drew_dispose s _)
  · rw [skipOnKey_of_gt _ (by omega)]
    exact unchanged_mono (by simp) (unchanged_reportedNoOp s _)

end

/-! ### The table -/

/-- The change from `s` to `t` is one that the table allows the instruction. -/
def WithinTable (i : Instr) (s t : State) : Prop :=
  RegsUnchangedExcept (fun r => mayWriteReg r i) s t ∧ UnchangedExcept (.regs :: mayWritePart i) s t

section
variable {i : Instr} {s t u : State}

/-- What holds of the state an instruction is known to answer holds of the one it answers. -/
theorem of_exec {P : State → Prop} (hexec : exec i s = .next u) (hu : P u) (h : exec i s = .next t) : P t := by
  rw [hexec] at h
  cases h
  exact hu

/-- A frame without the registers is a frame for the registers too. -/
theorem withinTable_of_unchanged {l : List Part} (h : UnchangedExcept l s t) (hregs : .regs ∉ l) (hl : l ⊆ mayWritePart i) :
    WithinTable i s t :=
  ⟨fun r _ => h .regs hregs r, unchanged_mono (fun _ hp => List.mem_cons_of_mem _ (hl hp)) h⟩

theorem withinTable_of_regs {P : Reg → Prop} {l : List Part} (hr : RegsUnchangedExcept P s t) (hP : ∀ r, P r → mayWriteReg r i)
    (h : UnchangedExcept (.regs :: l) s t) (hl : l ⊆ mayWritePart i) : WithinTable i s t :=
  ⟨fun r hn => hr r fun hp => hn (hP r hp), unchanged_mono (List.cons_subset_cons _ hl) h⟩

theorem withinTable_flagThen {x : Reg} (f : Byte) (g : State → Byte) (hP : ∀ r, r = x ∨ r = vf → mayWriteReg r i)
    (hl : [.pc] ⊆ mayWritePart i) : WithinTable i s (s.flagThen x f g) :=
  withinTable_of_regs (regsUnchanged_flagThen s f g) hP (unchanged_flagThen s f g) hl

/-- The address fault, for the instructions whose entry lists what it writes (R202, R206). -/
theorem withinTable_addressFault (a : Nat) (hl : [.report, .mark, .halted] ⊆ mayWritePart i) :
    WithinTable i s (s.addressFault a) :=
  withinTable_of_unchanged (unchanged_addressFault s a) (by simp) hl

/-- A ranged access, whose effect is in the table and whose address fault is. -/
theorem withinTable_of_withRange {len : Nat} (h : withRange s len u = .next t) (hu : WithinTable i s u)
    (hl : [.report, .mark, .halted] ⊆ mayWritePart i) : WithinTable i s t := by
  obtain ⟨_, rfl⟩ | ⟨_, rfl⟩ := withRange_next h
  · exact hu
  · exact withinTable_addressFault _ hl

/-- Every instruction keeps to its entry: each by the frame of the operations its meaning is made of. -/
theorem withinTable_of_exec (h : exec i s = .next t) : WithinTable i s t := by
  cases i
  case jp | seImm | sneImm | seReg | sneReg | jpV0 => -- PC alone
    exact of_exec rfl (withinTable_of_unchanged (unchanged_dispose s _) (by simp) (by simp [mayWritePart])) h
  case ldImm | addImm | ldReg | orReg | andReg | xorReg | ldVxDt => -- one register
    exact of_exec rfl (withinTable_of_regs (regsUnchanged_writeV_dispose _ _ _ s) (fun _ hr => hr)
      (unchanged_writeV_dispose _ _ _ s) (by simp [mayWritePart])) h
  case addReg x y => -- a register and VF
    exact of_exec (exec_addReg s y) (withinTable_of_regs (P := fun r => r = x ∨ r = vf)
      (regsUnchanged_writeV_writeV_dispose _ _ _ _ s (.inl rfl) (.inr rfl) _) (fun _ hr => hr)
      (unchanged_writeV_writeV_dispose _ _ _ _ s _) (by simp [mayWritePart])) h
  case sub x y => exact of_exec (exec_sub s y) (withinTable_flagThen _ _ (fun _ hr => hr) (by simp [mayWritePart])) h
  case subn x y => exact of_exec (exec_subn s y) (withinTable_flagThen _ _ (fun _ hr => hr) (by simp [mayWritePart])) h
  case shr x y => exact of_exec (exec_shr s y) (withinTable_flagThen _ _ (fun _ hr => hr) (by simp [mayWritePart])) h
  case shl x y => exact of_exec (exec_shl s y) (withinTable_flagThen _ _ (fun _ hr => hr) (by simp [mayWritePart])) h
  case rnd => -- a register and the count of answers
    exact of_exec rfl (withinTable_of_regs (regsUnchanged_drew_writeV_dispose s _ _ _) (fun _ hr => hr)
      (unchanged_drew_writeV_dispose s _ _ _) (by simp [mayWritePart])) h
  case ldVxK x =>
    cases hanswers : s.oracleAnswers with
    | true =>
      exact of_exec (exec_ldVxK_of_answers x hanswers) (withinTable_of_regs (regsUnchanged_drew_writeV_dispose s _ _ _)
        (fun _ hr => hr) (unchanged_drew_writeV_dispose s _ _ _) (by simp [mayWritePart])) h
    | false => rw [exec_ldVxK_of_silent x hanswers] at h; cases h
  case cls => exact of_exec rfl (withinTable_of_unchanged (unchanged_cleared_dispose _ s) (by simp) (by simp [mayWritePart])) h
  case ldI | addI | ldF =>
    exact of_exec rfl (withinTable_of_unchanged (unchanged_setI_dispose _ _ s) (by simp) (by simp [mayWritePart])) h
  case ldDtVx =>
    exact of_exec rfl (withinTable_of_unchanged (unchanged_setDt_dispose s _ _) (by simp) (by simp [mayWritePart])) h
  case ldStVx =>
    exact of_exec rfl (withinTable_of_unchanged (unchanged_setSt_dispose s _ _) (by simp) (by simp [mayWritePart])) h
  case ret => exact of_exec (exec_ret s) (withinTable_of_unchanged (unchanged_popAndJump s) (by simp) (by simp [mayWritePart])) h
  case call nnn =>
    exact of_exec (exec_call nnn s) (withinTable_of_unchanged (unchanged_pushAndJump s _ _) (by simp) (by simp [mayWritePart])) h
  case skp | sknp =>
    exact of_exec rfl (withinTable_of_unchanged (unchanged_skipOnKey s _ _) (by simp) (by simp [mayWritePart])) h
  case drw x y n => -- the four ranged accesses
    exact withinTable_of_withRange h (withinTable_of_regs (regsUnchanged_afterDraw s x y n.toNat) (fun _ hr => hr)
      (unchanged_afterDraw s x y n.toNat) (by simp [mayWritePart])) (by simp [mayWritePart])
  case ldB | storeRegs =>
    exact withinTable_of_withRange h (withinTable_of_unchanged (unchanged_storeAtI_dispose s _ _) (by simp)
      (by simp [mayWritePart])) (by simp [mayWritePart])
  case loadRegs x =>
    exact withinTable_of_withRange h (withinTable_of_regs (regsUnchanged_loaded s x) (fun _ hr => hr)
      (unchanged_setRegs_dispose s _ _) (by simp [mayWritePart])) (by simp [mayWritePart])

/-- A part the entry does not list is the same. -/
theorem same_of_exec {p : Part} (h : exec i s = .next t) (hp : p ∉ .regs :: mayWritePart i) : p.Same s t :=
  (withinTable_of_exec h).2 p hp

end

/-- Settles O53: `withinTable_of_exec`. -/
theorem noInstructionWritesOutsideItsTable : Obligations.NoInstructionWritesOutsideItsTable :=
  fun _ _ _ => withinTable_of_exec

end Sys2Proof.Machine
end

section
/-! PROOFS. What an instruction can come to, said once: the address fault, a report and a no-op, or completion with PC moved by its
disposition (spec/30_encoding.md R92, spec/60_exceptions.md R200 to R206). -/

namespace Sys2Proof.Machine

/-! ### The outcomes of an instruction -/

/-- A report of a cycle that goes on (R200): neither `none`, nor the fatal one, nor that of a held core. -/
structure Report.NonFatal (r : Report) : Prop where
  ne_none : r ≠ .none
  ne_halted : r ≠ .halted
  ne_addressFault : ∀ a, r ≠ .addressFault a

/-- PC after an instruction that ran from `s`, by its disposition (R92). -/
def PcMoves (i : Instr) (s t : State) : Prop :=
  t.pc = s.pc + 2#16 ∨ (isSkip i = true ∧ t.pc = s.pc + 4#16) ∨ jumpTarget s i = some t.pc

/-- Memory is as it was, or a block inside it was stored at I. -/
def MemMoves (s t : State) : Prop :=
  t.mem = s.mem ∨ ∃ bs : List Byte, s.i.toNat + bs.length ≤ 4096 ∧ t.mem = s.mem.writeList s.i.toNat bs

/-- How an instruction that answers can have ended. -/
inductive ExecOutcome (i : Instr) (s t : State) : Prop where
  /-- The address fault, and nothing else (R206). -/
  | faulted (a : Nat) (ht : t = s.addressFault a)
  /-- A report, and nothing else but PC + 2 (R200). -/
  | reported (r : Report) (hr : r.NonFatal) (ht : t = reportedNoOp r s)
  /-- Completion, with no report. -/
  | completed (report : t.report = s.report) (halted : t.halted = s.halted) (mark : t.faultMark = s.faultMark)
      (pc : PcMoves i s t) (mem : MemMoves s t)

section
variable {i : Instr} {s t u : State}

/-- An instruction that advances by one after changing neither PC nor report, latch or mark. -/
theorem execOutcome_advance (report : u.report = s.report) (halted : u.halted = s.halted) (mark : u.faultMark = s.faultMark)
    (pc : u.pc = s.pc) (mem : MemMoves s u) : ExecOutcome i s (u.dispose .advanceOne) := by
  refine .completed report halted mark (.inl ?_) mem
  rw [State.dispose_pc, pc]; rfl

/-- A skip that completes. -/
theorem execOutcome_skip (hi : isSkip i = true) (c : Bool) : ExecOutcome i s (s.dispose (skipIf c)) := by
  refine .completed rfl rfl rfl ?pc (.inl rfl)
  cases c with
  | true => exact .inr (.inl ⟨hi, rfl⟩)
  | false => exact .inl rfl

theorem execOutcome_setRegs (v : Vector Byte 16) : ExecOutcome i s ((s.setRegs v).dispose .advanceOne) :=
  execOutcome_advance rfl rfl rfl rfl (.inl rfl)

/-- A ranged access: its own outcome, or the address fault. -/
theorem execOutcome_withRange {len : Nat} (h : withRange s len u = .next t)
    (hu : len = 0 ∨ s.i.toNat + len ≤ 4096 → ExecOutcome i s u) : ExecOutcome i s t := by
  obtain ⟨hrange, rfl⟩ | ⟨_, rfl⟩ := withRange_next h
  · exact hu hrange
  · exact .faulted _ rfl

/-- A store of a block that is not empty, inside memory. -/
theorem execOutcome_store {bs : List Byte} {len : Nat} (hpos : 0 < len) (hlen : bs.length = len)
    (hrange : len = 0 ∨ s.i.toNat + len ≤ 4096) : ExecOutcome i s ((s.storeAtI bs).dispose .advanceOne) :=
  execOutcome_advance rfl rfl rfl rfl (.inr ⟨bs, by omega, rfl⟩)

theorem execOutcome_skipOnKey (hi : isSkip i = true) (want : Bool) (x : Reg) : ExecOutcome i s (skipOnKey want x s) := by
  by_cases hkey : (s.readV x).toNat ≤ 0x0F
  · rw [skipOnKey_of_le want hkey]
    refine .completed rfl rfl rfl ?pc (.inl rfl)
    cases keyAnswer s x == want with
    | true => exact .inr (.inl ⟨hi, rfl⟩)
    | false => exact .inl rfl
  · rw [skipOnKey_of_gt want (by omega)]
    exact .reported (.keyRange (s.readV x) s.pc) ⟨nofun, nofun, nofun⟩ rfl

theorem execOutcome_ret : ExecOutcome .ret s (popAndJump s) := by
  by_cases hsp : s.sp.val = 0
  · rw [popAndJump_of_empty hsp]
    exact .reported (.stackUnderflow s.pc) ⟨nofun, nofun, nofun⟩ rfl
  · rw [popAndJump_of_pos (Nat.pos_of_ne_zero hsp)]
    exact .completed rfl rfl rfl (.inr (.inr (dif_neg hsp))) (.inl rfl)

theorem execOutcome_call (nnn : Addr12) : ExecOutcome (.call nnn) s (pushAndJump (s.pc + 2#16) (zextAddr nnn) s) := by
  by_cases hsp : s.sp.val < 16
  · rw [pushAndJump_of_lt _ _ hsp]
    exact .completed rfl rfl rfl (.inr (.inr rfl)) (.inl rfl)
  · rw [pushAndJump_of_full _ _ (by omega)]
    exact .reported (.stackOverflow s.pc) ⟨nofun, nofun, nofun⟩ rfl

/-- Every instruction that answers ends in one of the three ways. -/
theorem execOutcome_of_exec (h : exec i s = .next t) : ExecOutcome i s t := by
  cases i
  case seImm | sneImm | seReg | sneReg => exact of_exec rfl (execOutcome_skip rfl _) h
  case skp | sknp => exact of_exec rfl (execOutcome_skipOnKey rfl _ _) h
  case ret => exact of_exec (exec_ret s) execOutcome_ret h
  case call nnn => exact of_exec (exec_call nnn s) (execOutcome_call nnn) h
  case jp nnn => exact of_exec (exec_jp nnn s) (.completed rfl rfl rfl (.inr (.inr rfl)) (.inl rfl)) h
  case jpV0 nnn => exact of_exec (exec_jpV0 nnn s) (.completed rfl rfl rfl (.inr (.inr rfl)) (.inl rfl)) h
  case drw x y n => exact execOutcome_withRange h fun _ => execOutcome_advance rfl rfl rfl rfl (.inl rfl)
  case loadRegs x => exact execOutcome_withRange h fun _ => execOutcome_setRegs _
  case ldB x => exact execOutcome_withRange h (execOutcome_store (by omega) rfl)
  case storeRegs x => exact execOutcome_withRange h (execOutcome_store (Nat.succ_pos _) (length_block s x))
  case ldVxK x =>
    cases hanswers : s.oracleAnswers with
    | true => exact of_exec (exec_ldVxK_of_answers x hanswers) (execOutcome_advance rfl rfl rfl rfl (.inl rfl)) h
    | false => rw [exec_ldVxK_of_silent x hanswers] at h; cases h
  all_goals
    refine of_exec rfl ?_ h
    exact execOutcome_advance rfl rfl rfl rfl (.inl rfl)

/-- An instruction that leaves a running core halted took the address fault. -/
theorem eq_addressFault_of_halted (h : exec i s = .next t) (hs : s.halted = false) (ht : t.halted = true) :
    ∃ a, t = s.addressFault a := by
  cases execOutcome_of_exec h with
  | faulted a ha => exact ⟨a, ha⟩
  | reported r _ hr => subst hr; exact absurd ht (ne_true_of_eq_false hs)
  | completed _ hhalted => rw [hhalted, hs] at ht; cases ht

/-! ### The parts one instruction alone writes, from the table -/

/-- DT is what Fx15 wrote, else as before (R182). -/
theorem dt_of_exec (h : exec i s = .next t) : t.dt = timerBeforeTick s (some i) := by
  cases i
  case ldDtVx x => exact of_exec (P := fun t => t.dt = s.readV x) (exec_ldDtVx x s) rfl h
  all_goals exact same_of_exec (p := .dt) h (by simp [mayWritePart])

/-- ST is what Fx18 wrote, else as before (R183). -/
theorem st_of_exec (h : exec i s = .next t) : t.st = soundBeforeTick s (some i) := by
  cases i
  case ldStVx x => exact of_exec (P := fun t => t.st = s.readV x) (exec_ldStVx x s) rfl h
  all_goals exact same_of_exec (p := .st) h (by simp [mayWritePart])

/-- A DRW that does not fault raises `display_changed`, and no other instruction touches it (R31). -/
theorem displayChanged_of_exec (h : exec i s = .next t) (hs : s.displayChanged = false) (ht : t.halted = false) :
    t.displayChanged = true ↔ ∃ x y n, i = .drw x y n := by
  cases i
  case drw x y n =>
    obtain ⟨_, rfl⟩ | ⟨_, rfl⟩ := withRange_next h
    · exact ⟨fun _ => ⟨x, y, n, rfl⟩, fun _ => rfl⟩
    · cases ht
  all_goals
    have hframe : t.displayChanged = s.displayChanged := same_of_exec (p := .display) h (by simp [mayWritePart])
    simp [hframe, hs]

/-- CLS raises `clear_requested`, and no other instruction touches it (R31). -/
theorem clearRequested_of_exec (h : exec i s = .next t) (hs : s.clearRequested = false) :
    t.clearRequested = true ↔ i = .cls := by
  cases i
  case cls => exact ⟨fun _ => rfl, fun _ => of_exec (P := fun t => t.clearRequested = true) (exec_cls s) rfl h⟩
  all_goals
    have hframe : t.clearRequested = s.clearRequested := same_of_exec (p := .clear) h (by simp [mayWritePart])
    simp [hframe, hs]

/-- CALL alone writes the stack: PC + 2 at one entry (R123). -/
theorem stack_of_exec (h : exec i s = .next t) :
    t.stack = s.stack ∨ ∃ (k : Nat) (hk : k < 16), t.stack = s.stack.set k (s.pc + 2#16) hk := by
  cases i
  case call nnn =>
    by_cases hsp : s.sp.val < 16
    · exact .inr ⟨s.sp.val, hsp, of_exec (P := fun t => t.stack = _) (exec_call_of_lt nnn hsp) rfl h⟩
    · have hexec := (exec_call nnn s).trans (congrArg _ (pushAndJump_of_full _ _ (by omega)))
      exact .inl (of_exec (P := fun t => t.stack = s.stack) hexec rfl h)
  all_goals exact .inl (same_of_exec (p := .stack) h (by simp [mayWritePart]))

/-! ### Every instruction answers, but for the wait -/

theorem withRange_answers (s : State) (len : Nat) (after : State) : ∃ t, withRange s len after = .next t := by
  unfold withRange raiseAddressFault
  split
  · exact ⟨_, rfl⟩
  · exact ⟨_, rfl⟩

/-- An instruction answers a next state, or it is the key wait with a silent oracle (log 5). -/
theorem exec_answers (i : Instr) (s : State) :
    (∃ t, exec i s = .next t) ∨ (s.oracleAnswers = false ∧ ∃ x, i = .ldVxK x) := by
  cases i
  case ldVxK x =>
    cases hanswers : s.oracleAnswers with
    | true => exact .inl ⟨_, exec_ldVxK_of_answers x hanswers⟩
    | false => exact .inr ⟨rfl, x, rfl⟩
  case drw | ldB | storeRegs | loadRegs => exact .inl (withRange_answers s _ _)
  all_goals exact .inl ⟨_, rfl⟩

theorem exec_ne_refused (i : Instr) (s : State) (r : Refusal) : exec i s ≠ .refused r := by
  obtain ⟨t, ht⟩ | ⟨hsilent, x, rfl⟩ := exec_answers i s
  · rw [ht]; nofun
  · rw [exec_ldVxK_of_silent x hsilent]; nofun

end

end Sys2Proof.Machine
end

section
/-! PROOFS. The cycle (spec/30_encoding.md R90, R91, R104; spec/60_exceptions.md R201 to R214): the four things a Step can be, and
what each leaves of PC, the timers, the signals, the report and the latch. -/

namespace Sys2Proof.Machine

/-! ### The outcomes of a Step -/

/-- What a Step that answers can have been. -/
inductive StepOutcome (s u : State) : Prop where
  /-- The core was halted (R209). -/
  | held (hs : s.halted = true) (hu : u = haltedCycle s.beginCycle)
  /-- The address fault, of the fetch or of the instruction (R91, R206). -/
  | faulted (hs : s.halted = false) (a : Nat) (hu : u = s.beginCycle.addressFault a)
  /-- An INVALID word (R104). -/
  | invalid (hs : s.halted = false) (hpc : s.pc.toNat ≤ 0x0FFE) (hdecode : decodeWord (s.mem.readWord s.pc.toNat) = none)
      (hu : u = (invalidOpcode (s.mem.readWord s.pc.toNat) s.beginCycle).tick)
  /-- An instruction that left the core running, and the tick (R214). -/
  | ran (i : Instr) (t : State) (hfetch : Fetches s i) (hexec : exec i s.beginCycle = .next t) (ht : t.halted = false)
      (hu : u = t.tick)

theorem stepOutcome_of_step {s u : State} (h : step s = .next u) : StepOutcome s u := by
  obtain ⟨hs, hu⟩ | ⟨hs, _, hu⟩ | ⟨hs, hpc, hdecode, hu⟩ | ⟨hs, hpc, i, t, hdecode, hexec, hu⟩ := step_cases h
  · exact .held hs hu
  · exact .faulted hs _ hu
  · exact .invalid hs hpc hdecode hu
  · cases ht : t.halted with
    | false => exact .ran i t ⟨⟨hs, hpc⟩, hdecode⟩ hexec ht (by rw [hu, State.endCycle, ht]; rfl)
    | true =>
      obtain ⟨a, ha⟩ := eq_addressFault_of_halted hexec hs ht
      exact .faulted hs a (by rw [hu, State.endCycle, ht, ← ha]; rfl)

/-- A cycle fetches one instruction. -/
theorem fetches_unique {s : State} {i j : Instr} (hi : Fetches s i) (hj : Fetches s j) : i = j :=
  Option.some.inj (hi.decodes.symm.trans hj.decodes)

theorem not_fetches_of_invalid {s : State} (h : decodeWord (s.mem.readWord s.pc.toNat) = none) (i : Instr) : ¬Fetches s i :=
  fun hfetch => Option.some_ne_none i (hfetch.decodes.symm.trans h)

/-! ### Single Steps -/

theorem tick_eq (t : State) :
    t.tick = { t with dt := BitVec.ofNat 8 (t.dt.toNat - 1), st := BitVec.ofNat 8 (t.st.toNat - 1) } := by
  have hbyte (b : Byte) : (if b = 0 then 0 else b - 1) = BitVec.ofNat 8 (b.toNat - 1) := by
    apply BitVec.eq_of_toNat_eq
    rw [toNat_tick, BitVec.toNat_ofNat, Nat.mod_eq_of_lt (Nat.lt_of_le_of_lt (Nat.sub_le _ _) b.isLt)]
  simp only [State.tick, hbyte]

/-- Settles O45: `step` on a decoded word is `exec` and the end of the cycle. -/
theorem stepRunsTheDecodedInstruction : Obligations.StepRunsTheDecodedInstruction := by
  intro s i hfetch
  have hstep : step s = finishCycle (exec i s.beginCycle) := step_of_instr hfetch.not_halted hfetch.pc_le hfetch.decodes
  refine ⟨fun t hexec ht => ?halts, fun t hexec ht => ?completes, fun f hexec => ?faults, exec_ne_refused i _⟩
  case halts =>
    have hend : t.endCycle = t := if_pos ht
    exact hstep.trans ((congrArg finishCycle hexec).trans (congrArg _ hend))
  case completes => exact (step_eq_tick_of_exec hfetch hexec ht).trans (congrArg _ (tick_eq t))
  case faults => exact hstep.trans (congrArg finishCycle hexec)

/-- Settles O46: a word no row matches decodes to none, and the Step is the report, PC + 2 and the tick. -/
theorem invalidWordIsReportedNoOp : Obligations.InvalidWordIsReportedNoOp := by
  rintro s _ ⟨⟨hrun, hpc⟩, rfl⟩ hwf
  refine ⟨_, step_of_invalid hrun hpc (decodeWord_eq_none_of_not_wordWf hwf), rfl, rfl, rfl, rfl, rfl, toNat_tick s.dt,
    toNat_tick s.st, ?frame⟩
  case frame =>
    refine unchanged_then (unchanged_tick _) (by simp) (unchanged_then (unchanged_reportedNoOp _ _) (by simp) ?_)
    exact unchanged_mono (by simp) (unchanged_beginCycle s)

/-- Settles O47: a held core reports and does nothing else. -/
theorem haltedCoreDoesNothing : Obligations.HaltedCoreDoesNothing := by
  refine fun s hs => ⟨_, step_of_halted hs, rfl, rfl, rfl, rfl, ?frame⟩
  case frame =>
    exact unchanged_then (unchanged_reportAs _ _) (by simp) (unchanged_mono (by simp) (unchanged_beginCycle s))

/-- Settles O48: the lowest address outside memory is 0x1000 or PC, whichever is higher. -/
theorem unfetchablePcHalts : Obligations.UnfetchablePcHalts := by
  refine fun s hs hpc => ⟨_, step_of_unfetchable hs hpc, rfl, rfl, rfl, rfl, ?report, ?frame⟩
  case report =>
    have haddr : max s.pc.toNat 0x1000 = if s.pc.toNat = 0x0FFF then 0x1000 else s.pc.toNat := by split <;> omega
    rw [State.addressFault_report, haddr]
  case frame =>
    exact unchanged_then (unchanged_addressFault _ _) (by simp) (unchanged_mono (by simp) (unchanged_beginCycle s))

/-! ### Over every Step -/

theorem timerBeforeTick_beginCycle (s : State) (i : Option Instr) : timerBeforeTick s.beginCycle i = timerBeforeTick s i := by
  unfold timerBeforeTick
  split <;> rfl

theorem soundBeforeTick_beginCycle (s : State) (i : Option Instr) : soundBeforeTick s.beginCycle i = soundBeforeTick s i := by
  unfold soundBeforeTick
  split <;> rfl

/-- Settles O49: the tick comes in the two outcomes that leave the core running. -/
theorem timersTickOncePerCompletedCycle : Obligations.TimersTickOncePerCompletedCycle := by
  intro s u h
  cases stepOutcome_of_step h with
  | held hs hu => subst hu; exact ⟨fun _ => ⟨rfl, rfl⟩, fun hrun => absurd hs (ne_true_of_eq_false hrun)⟩
  | faulted _ a hu => subst hu; exact ⟨fun _ => ⟨rfl, rfl⟩, nofun⟩
  | invalid hs _ hdecode hu =>
    subst hu
    refine ⟨fun hhalted => absurd hhalted (ne_true_of_eq_false hs), fun _ => ?_⟩
    rw [hdecode]; exact ⟨toNat_tick s.dt, toNat_tick s.st⟩
  | ran i t hfetch hexec ht hu =>
    subst hu
    refine ⟨fun hhalted => absurd hhalted (ne_true_of_eq_false ht), fun _ => ?_⟩
    rw [State.tick_dt, State.tick_st, toNat_tick, toNat_tick, dt_of_exec hexec, st_of_exec hexec, timerBeforeTick_beginCycle,
      soundBeforeTick_beginCycle, hfetch.decodes]
    exact ⟨rfl, rfl⟩

/-- A Step of a running core that leaves it running moves PC by 2 or by the disposition of the instruction it fetched. -/
theorem pcMoves_of_exec {i : Instr} {s t : State} (h : exec i s = .next t) (ht : t.halted = false) : PcMoves i s t := by
  cases execOutcome_of_exec h with
  | faulted a ha => subst ha; cases ht
  | reported r _ hr => subst hr; exact .inl rfl
  | completed _ _ _ hpc => exact hpc

theorem jumpTarget_beginCycle (s : State) (i : Instr) : jumpTarget s.beginCycle i = jumpTarget s i := by
  cases i <;> rfl

/-- Settles O50: an INVALID word moves PC by 2, an instruction by its disposition, and nothing else moves it. -/
theorem pcMovesOnlyByItsDisposition : Obligations.PcMovesOnlyByItsDisposition := by
  intro s u h
  cases stepOutcome_of_step h with
  | held hs hu => subst hu; exact ⟨fun _ => rfl, fun hrun => absurd hs (ne_true_of_eq_false hrun)⟩
  | faulted _ a hu => subst hu; exact ⟨fun _ => rfl, nofun⟩
  | invalid hs _ _ hu => subst hu; exact ⟨fun hhalted => absurd hhalted (ne_true_of_eq_false hs), fun _ => .inl rfl⟩
  | ran i t hfetch hexec ht hu =>
    subst hu
    refine ⟨fun hhalted => absurd hhalted (ne_true_of_eq_false ht), fun _ => ?_⟩
    obtain hpc | ⟨hskip, hpc⟩ | hpc := pcMoves_of_exec hexec ht
    · exact .inl hpc
    · exact .inr (.inl ⟨i, hfetch, hskip, hpc⟩)
    · exact .inr (.inr ⟨i, hfetch, (jumpTarget_beginCycle s i).symm.trans hpc⟩)

/-- At most one signal is at most one Frame Sink call (R221). -/
theorem length_sinkCalls_le_one {s : State} (h : ¬(s.displayChanged = true ∧ s.clearRequested = true)) :
    (sinkCalls s.output).length ≤ 1 := by
  cases hclear : s.clearRequested with
  | false => -- at most the call that renders
    simp only [sinkCalls, State.output, hclear]
    split <;> simp
  | true =>
    have hdisplay : s.displayChanged = false := by simpa [hclear] using h
    simp [sinkCalls, State.output, hclear, hdisplay]

theorem step_of_fetches_cls {s : State} (hfetch : Fetches s .cls) : step s = .next (s.beginCycle.cleared.dispose .advanceOne).tick :=
  step_eq_tick_of_exec hfetch (exec_cls s.beginCycle) hfetch.not_halted

/-- `display_changed` after a Step (R31). -/
theorem displayChanged_of_step {s u : State} (h : step s = .next u) :
    u.displayChanged = true ↔ u.halted = false ∧ ∃ x y n, Fetches s (.drw x y n) := by
  cases stepOutcome_of_step h with
  | held hs hu => subst hu; exact ⟨nofun, fun ⟨_, _, _, _, hfetch⟩ => absurd hs (ne_true_of_eq_false hfetch.not_halted)⟩
  | faulted _ a hu => subst hu; exact ⟨nofun, fun ⟨hrun, _⟩ => nomatch hrun⟩
  | invalid _ _ hdecode hu => subst hu; exact ⟨nofun, fun ⟨_, _, _, _, hfetch⟩ => absurd hfetch (not_fetches_of_invalid hdecode _)⟩
  | ran i t hfetch hexec ht hu =>
    subst hu
    refine (displayChanged_of_exec hexec rfl ht).trans ⟨?_, ?_⟩
    · rintro ⟨x, y, n, rfl⟩; exact ⟨ht, x, y, n, hfetch⟩
    · rintro ⟨_, x, y, n, hdrw⟩; exact ⟨x, y, n, fetches_unique hfetch hdrw⟩

/-- `clear_requested` after a Step (R31). -/
theorem clearRequested_of_step {s u : State} (h : step s = .next u) : u.clearRequested = true ↔ Fetches s .cls := by
  refine ⟨fun hclear => ?_, fun hfetch => ?_⟩
  · cases stepOutcome_of_step h with
    | held _ hu => subst hu; cases hclear
    | faulted _ a hu => subst hu; cases hclear
    | invalid _ _ _ hu => subst hu; cases hclear
    | ran i t hfetch hexec _ hu => subst hu; exact (clearRequested_of_exec hexec rfl).mp hclear ▸ hfetch
  · rw [step_of_fetches_cls hfetch] at h
    cases h; rfl

theorem not_both_signals_of_step {s u : State} (h : step s = .next u) : ¬(u.displayChanged = true ∧ u.clearRequested = true) := by
  rintro ⟨hdisplay, hclear⟩
  obtain ⟨_, _, _, _, hdrw⟩ := (displayChanged_of_step h).mp hdisplay
  exact nomatch fetches_unique hdrw ((clearRequested_of_step h).mp hclear)

/-- Settles O51: each signal from its own instruction, of which a cycle fetches one. -/
theorem signalsFollowDrawAndClear : Obligations.SignalsFollowDrawAndClear :=
  fun _ _ h => ⟨displayChanged_of_step h, clearRequested_of_step h, not_both_signals_of_step h,
    length_sinkCalls_le_one (not_both_signals_of_step h)⟩

/-- Settles O52: the report of each outcome; an instruction's is `none` or not fatal unless it took the address fault. -/
theorem latchAndMarkFollowTheReport : Obligations.LatchAndMarkFollowTheReport := by
  intro s u h
  cases stepOutcome_of_step h with
  | held hs hu => subst hu; simp [haltedCycle, hs]
  | faulted hs a hu => subst hu; simp [hs]
  | invalid hs _ _ hu => subst hu; simp [invalidOpcode, reportedNoOp, hs]
  | ran i t hfetch hexec ht hu =>
    subst hu
    have hs : s.halted = false := hfetch.not_halted
    cases execOutcome_of_exec hexec with
    | faulted a ha => subst ha; cases ht
    | reported r hr hu =>
      subst hu
      simp [reportedNoOp, hs, hr.ne_none, hr.ne_halted, hr.ne_addressFault]
    | completed hreport hhalted hmark => simp [hreport, hhalted, hmark, hs]

/-- Settles O54: `exec_answers` where the cycle decodes an instruction; every other Step answers. -/
theorem everyStepAnswersButAnUnansweredWait : Obligations.EveryStepAnswersButAnUnansweredWait := by
  intro s
  cases hs : s.halted with
  | true => exact .inl ⟨_, step_of_halted hs⟩
  | false =>
    by_cases hpc : s.pc.toNat ≤ 0x0FFE
    · cases hdecode : decodeWord (s.mem.readWord s.pc.toNat) with
      | none => exact .inl ⟨_, step_of_invalid hs hpc hdecode⟩
      | some i =>
        obtain ⟨t, ht⟩ | ⟨hsilent, x, rfl⟩ := exec_answers i s.beginCycle
        · exact .inl ⟨t.endCycle, by rw [step_of_instr hs hpc hdecode, ht]; rfl⟩
        · exact .inr ⟨hsilent, x, ⟨hs, hpc⟩, hdecode⟩
    · exact .inl ⟨_, step_of_unfetchable hs (by omega)⟩

/-- Settles O55: the two bytes at PC + 2 are the first two of the block stored there. -/
theorem storeIsSeenByTheNextFetch : Obligations.StoreIsSeenByTheNextFetch := by
  intro x s hx hpc hi hs
  have hnext : (s.pc + 2#16).toNat = s.pc.toNat + 2 := by bv_omega
  refine ⟨_, exec_storeRegs_of_le x (by rw [hi, hnext]; exact hpc), ⟨hs, ?pc⟩, ?word⟩
  case pc => exact hnext.trans_le (by omega)
  case word =>
    have h0 := read_store_block s x (r := 0#4) (Nat.zero_le _)
    have h1 := read_store_block s x (r := 1#4) hx
    rw [hi] at h0 h1
    exact congrArg₂ wordOfBytes h0 h1

/-- Settles O58: what is neither marked nor halted after a Step follows backwards through the equivalences of O52. -/
theorem cleanStatesComeFromCleanStates : Obligations.CleanStatesComeFromCleanStates := by
  intro s u h hclean
  obtain ⟨hhalted, _, hmark⟩ := latchAndMarkFollowTheReport s u h
  have ⟨hm, hh⟩ : u.faultMark = false ∧ u.halted = false := by simpa [State.clean] using hclean
  have hs : s.halted = false := Bool.eq_false_of_not_eq_true fun e => absurd (hhalted.mpr (.inl e)) (by simp [hh])
  have hsm : s.faultMark = false := Bool.eq_false_of_not_eq_true fun e => absurd (hmark.mpr (.inl e)) (by simp [hm])
  have hreport : u.report = .none := by
    by_contra e
    exact absurd (hmark.mpr (.inr e)) (by simp [hm])
  exact ⟨by simp [State.clean, hs, hsm], hreport⟩

/-- Settles O59: over a Step by O52; Reset, Load and the oracle keep the field. -/
theorem markIsNeverCleared : Obligations.MarkIsNeverCleared :=
  fun s hs => ⟨fun u h => have ⟨_, _, hmark⟩ := latchAndMarkFollowTheReport s u h; hmark.mpr (.inl hs),
    fun _ => hs, fun _ => hs, fun _ => hs⟩

end Sys2Proof.Machine
end

section
/-! PROOFS. The machine's invariant (spec/10_state.md R25, R31): at reset, over every Step, and over what happens between Steps; the
reset state and the host's Reset piece by piece (spec/10_state.md R47, spec/70_reset_and_hazards.md R240). -/

namespace Sys2Proof.Machine

/-! ### Reset -/

theorem readV_reset (r : Reg) : State.reset.readV r = 0#8 := Vector.getElem_replicate _

theorem length_glyph : glyph.length = 80 := rfl

/-- Settles O1: memory with no cell reads as `glyph`, and as 0 past its 80 bytes. -/
theorem resetLeavesEveryPieceAtItsValue : Obligations.ResetLeavesEveryPieceAtItsValue := by
  refine ⟨readV_reset, rfl, rfl, rfl, fun k => ?stack, rfl, rfl, length_glyph, fun a _ => rfl, fun a ha => ?zero, fun r c => ?pixel,
    rfl, rfl, rfl, rfl, rfl⟩
  case stack => exact Vector.getElem_replicate _
  case zero => exact List.getD_eq_default _ _ ha
  case pixel => simp [State.pixel, State.reset]

/-- Settles O57: each clause at its reset value. -/
theorem resetHasTheInvariant : Obligations.ResetHasTheInvariant where
  mem_wf := rfl
  pc_le := by decide
  stack_le k := by simp [State.reset]
  one_signal := by decide
  report_marked := fun h => absurd rfl h
  halted_marked := nofun

section
variable (font : Vector Byte 80) (s : State)

theorem hostReset_mem : (hostReset font s).mem = Memory.writeList [] 0 font.toList := rfl

theorem wf_mem_hostReset : (hostReset font s).mem.wf = true :=
  Memory.wf_writeList font.toList (by rw [Vector.length_toList]; decide) Memory.wf_nil

theorem read_hostReset_of_lt {a : Nat} (ha : a < 80) : (hostReset font s).mem.read a = font[a] := by
  rw [hostReset_mem, Memory.read_writeList, if_pos (by rw [Vector.length_toList]; omega)]
  rw [List.getD_eq_getElem _ _ (by rw [Vector.length_toList]; exact ha)]
  exact Vector.getElem_toList _

theorem read_hostReset_of_ge {a : Nat} (ha : 80 ≤ a) : (hostReset font s).mem.read a = 0#8 := by
  rw [hostReset_mem, Memory.read_writeList, if_neg (by rw [Vector.length_toList]; omega)]
  exact List.getD_eq_default _ _ ha

/-- The host's Reset is the reset state but for memory and the three fields that are not the core's (R240, log 14). -/
theorem unchanged_hostReset : UnchangedExcept [.mem, .mark, .draws, .oracle] State.reset (hostReset font s) := by
  intro p hp
  cases p
  case mem | mark | draws | oracle => simp at hp
  case regs => exact fun _ => rfl
  case fb => exact fun _ _ => rfl
  all_goals rfl

/-- Settles O2: memory is the font written over nothing. -/
theorem hostResetRestoresEveryPiece : Obligations.HostResetRestoresEveryPiece :=
  fun font s => ⟨fun a => read_hostReset_of_lt font s a.isLt, fun _ ha => read_hostReset_of_ge font s ha, wf_mem_hostReset font s,
    unchanged_hostReset font s, rfl, rfl, rfl⟩

end

/-! ### A Step -/

section
variable {i : Instr} {s t u : State}

/-- The clauses of the invariant that a report or the latch does not touch, from any state with the same parts. -/
theorem MachineInv.of_same_store (h : MachineInv s) (hmem : u.mem = s.mem) (hpc : u.pc.toNat ≤ 0x10FE) (hstack : u.stack = s.stack)
    (hsignal : ¬(u.displayChanged = true ∧ u.clearRequested = true)) (hreport : u.report ≠ .none → u.faultMark = true)
    (hhalted : u.halted = true → u.faultMark = true) : MachineInv u where
  mem_wf := hmem ▸ h.mem_wf
  pc_le := hpc
  stack_le := hstack ▸ h.stack_le
  one_signal := hsignal
  report_marked := hreport
  halted_marked := hhalted

/-- Every instruction keeps memory canonical: it stores inside memory alone. -/
theorem wf_mem_of_exec (h : exec i s = .next t) (hs : s.mem.wf = true) : t.mem.wf = true := by
  cases execOutcome_of_exec h with
  | faulted a ha => subst ha; exact hs
  | reported r _ hr => subst hr; exact hs
  | completed _ _ _ _ hmem =>
    obtain hmem | ⟨bs, hrange, hmem⟩ := hmem
    · rw [hmem]; exact hs
    · rw [hmem]; exact Memory.wf_writeList bs hrange hs

theorem jumpTarget_ret_of_empty (h : s.sp.val = 0) : jumpTarget s .ret = none := dif_pos h

theorem jumpTarget_ret_of_pos (h : s.sp.val ≠ 0) :
    jumpTarget s .ret = some (s.stack[s.sp.val - 1]'(by have := s.sp.isLt; omega)) := dif_neg h

/-- A jump goes to at most 0xFFF + 0xFF, or to a stack entry (R25). -/
theorem toNat_jumpTarget_le (hstack : ∀ k : Fin 16, s.stack[k].toNat ≤ 0x1000) {a : Word} (h : jumpTarget s i = some a) :
    a.toNat ≤ 0x10FE := by
  cases i
  case jp nnn | call nnn =>
    cases h
    have := nnn.isLt
    exact (toNat_zextAddr nnn).trans_le (by omega)
  case jpV0 nnn =>
    cases h
    have := nnn.isLt
    have := (s.readV 0#4).isLt
    exact (toNat_zextAddr_add_zext16 nnn (s.readV 0#4)).trans_le (by omega)
  case ret =>
    by_cases hsp : s.sp.val = 0
    · rw [jumpTarget_ret_of_empty hsp] at h; cases h
    · rw [jumpTarget_ret_of_pos hsp] at h
      cases h
      have hentry := hstack ⟨s.sp.val - 1, by have := s.sp.isLt; omega⟩
      exact Nat.le_trans hentry (by decide)
  all_goals cases h

/-- PC after an instruction fetched inside memory (R25). -/
theorem toNat_pc_le_of_pcMoves (h : PcMoves i s t) (hpc : s.pc.toNat ≤ 0x0FFE) (hstack : ∀ k : Fin 16, s.stack[k].toNat ≤ 0x1000) :
    t.pc.toNat ≤ 0x10FE := by
  obtain h | ⟨_, h⟩ | h := h
  · rw [h]; bv_omega
  · rw [h]; bv_omega
  · exact toNat_jumpTarget_le hstack h

/-- The entry CALL pushes is the address after an instruction fetched inside memory, at most 0x1000 (R25). -/
theorem toNat_stack_le_of_exec (h : exec i s = .next t) (hpc : s.pc.toNat ≤ 0x0FFE)
    (hstack : ∀ k : Fin 16, s.stack[k].toNat ≤ 0x1000) (k : Fin 16) : t.stack[k].toNat ≤ 0x1000 := by
  obtain hsame | ⟨j, hj, hset⟩ := stack_of_exec h
  · rw [hsame]; exact hstack k
  · rw [hset, Fin.getElem_fin, Vector.getElem_set]
    split
    · bv_omega
    · exact hstack k

end

/-- Settles O56: the clauses on the signals, the report and the latch hold after every Step by O51 and O52; memory, PC and the stack
change only where an instruction ran, and by `wf_mem_of_exec`, `PcMoves` and `stack_of_exec`. -/
theorem stepKeepsTheInvariant : Obligations.StepKeepsTheInvariant := by
  intro s u hinv h
  obtain ⟨hhalted, _, hmark⟩ := latchAndMarkFollowTheReport s u h
  have hsignal := not_both_signals_of_step h
  have hreported : u.report ≠ .none → u.faultMark = true := fun e => hmark.mpr (.inr e)
  have hlatched : u.halted = true → u.faultMark = true := by
    intro e
    obtain hs | ⟨a, ha⟩ := hhalted.mp e
    · exact hmark.mpr (.inl (hinv.halted_marked hs))
    · exact hreported (by rw [ha]; nofun)
  cases stepOutcome_of_step h with
  | held _ hu => subst hu; exact hinv.of_same_store rfl hinv.pc_le rfl hsignal hreported hlatched
  | faulted _ a hu => subst hu; exact hinv.of_same_store rfl hinv.pc_le rfl hsignal hreported hlatched
  | invalid _ hpc _ hu =>
    subst hu
    have hnext : (s.pc + 2#16).toNat ≤ 0x10FE := by bv_omega
    exact hinv.of_same_store rfl hnext rfl hsignal hreported hlatched
  | ran i t hfetch hexec ht hu =>
    subst hu
    have hpc : s.pc.toNat ≤ 0x0FFE := hfetch.pc_le
    exact {
      mem_wf := wf_mem_of_exec (t := t) hexec hinv.mem_wf
      pc_le := toNat_pc_le_of_pcMoves (t := t) (pcMoves_of_exec hexec ht) hpc hinv.stack_le
      stack_le := toNat_stack_le_of_exec (t := t) hexec hpc hinv.stack_le
      one_signal := hsignal
      report_marked := hreported
      halted_marked := hlatched }

/-! ### Between Steps -/

/-- Load stores at most 3584 bytes from 0x200, which end inside memory (R75). -/
theorem wf_mem_hostLoad (bytes : List Byte) {s : State} (hs : s.mem.wf = true) : (hostLoad bytes s).mem.wf = true := by
  refine Memory.wf_writeList _ ?_ hs
  rw [List.length_take]
  simp only [Config.progBase, Config.progMax, Config.memSize]
  omega

/-- Settles O60: Reset gives every clause its reset value; Load changes memory alone, and the oracle no clause. -/
theorem hostMovesKeepTheInvariant : Obligations.HostMovesKeepTheInvariant := by
  intro font bytes answers s
  refine ⟨?reset, wf_mem_hostLoad bytes, fun hinv => ⟨?load, ?oracle⟩, unchanged_oracleMove s answers, rfl⟩
  case reset =>
    exact { resetHasTheInvariant with
      mem_wf := wf_mem_hostReset font s
      report_marked := fun h => absurd rfl h
      halted_marked := nofun }
  case load => exact { hinv with mem_wf := wf_mem_hostLoad bytes hinv.mem_wf }
  case oracle => exact { hinv with }

end Sys2Proof.Machine
end
